-- ==== Sys2Proof/Word.lean ====
section
/-! DEFINITION. Bytes, planes, bit sequences, texts and the 8×8 pixel matrix (00_scope.md R6, R8). -/

namespace Sys2Proof

/-- An unsigned byte; bit `i` has weight `2^i` (R8). -/
abbrev Byte := BitVec 8

/-- A bit sequence of any length, the untruncated output of the byte serialiser (R9). -/
abbrev RawBits := List Bool

/-- A BitSequence: exactly 64 bits, index `k = r*8 + c` (R8, R50). -/
abbrev BitSequence := Vector Bool 64

/-- A ColumnPlane or RowPlane: 8 bytes, the index is the column number (R8). -/
abbrev Plane := Vector Byte 8

/-- A text of the host: a sequence of characters, its length counted in characters (R130, D14). -/
abbrev Text := List Char

/-- PixelMatrix (R8, R10): 8 rows of 8 cells, `true` is lit. The type has no other size (R6, R11). -/
structure PixelMatrix where
  /-- The rows, row 0 first; in a row column 0 first. -/
  rows : Vector (Vector Bool 8) 8
deriving DecidableEq, Repr, Inhabited

/-- The cell `X[r][c]`, row index first (R8). -/
def PixelMatrix.cell (X : PixelMatrix) (r c : Fin 8) : Bool := (X.rows.get r).get c

/-- The matrix with the given cells. -/
def PixelMatrix.ofCells (f : Fin 8 → Fin 8 → Bool) : PixelMatrix :=
  ⟨Vector.ofFn fun r => Vector.ofFn fun c => f r c⟩

end Sys2Proof
end

