-- ==== Sys2Proof/Config.lean ====
section
/-! DEFINITION. The fixed parameters (00_scope.md R6), the host's fixed name sets, and the open parameters and
free value as constants without a body (R7; 92_eei_decisions.md section 3). -/

namespace Sys2Proof

/-- The two modes of the surrounding application (R9, R164). -/
inductive AppMode where
  | text
  | draw
deriving DecidableEq, Repr, Inhabited

/-- The mode a tab switch leads to: there are two (R164). -/
def AppMode.other : AppMode → AppMode
  | .text => .draw
  | .draw => .text

/-- The two planes, which are also the two export files: `eprom1-columns` and `eprom2-rows` (R9, R163). -/
inductive PlaneId where
  | columns
  | rows
deriving DecidableEq, Repr, Inhabited

/-- The ingredients of an export file's name: mode prefix, label, timestamp (R163). -/
structure FileName where
  /-- The prefix, `text` or `drawing`. -/
  pre : AppMode
  /-- The label, `eprom1-columns` or `eprom2-rows`. -/
  label : PlaneId
  /-- The timestamp, from a clock the spec does not describe (R179). -/
  stamp : Nat
deriving DecidableEq, Repr

namespace Config

/-- `NBITS` of R6: the length of a BitSequence. -/
def nbits : Nat := 64

/-- `IMPORT_LEN` of R6: most bytes of an import buffer that matrix-mode decode looks at. -/
def importLen : Nat := 64

/-- `TEXT_MAX` of R6: greatest accepted text length, in characters. -/
def textMax : Nat := 20

/-- `EXPORT_FILE_LEN` of R6: bytes in each export file. -/
def exportFileLen : Nat := 8

/-- Largest payload of format V: `n` is one byte (R65, D20). -/
def maxPayload : Nat := 255

/-- Open parameter `TEXT_DECODER` (R150, D15): a string, or none for a DecodeError. -/
opaque textDecoder : List Byte → Option Text

/-! Open parameter `PREVIEW_FORMAT` (R161, D16): what R160 leaves open of the preview string (log entry 12). -/

/-- Which of the 34 pieces of a preview stands at each place: their order is in no source (R161). -/
opaque previewOrder : Equiv.Perm (Fin 34)

/-- The text before the piece at a place, and at place 34 the text after the last: layout and separators (R161). -/
opaque previewGap : Nat → List Byte → List Byte → PixelMatrix → Text

/-- The least number of binary digits of a byte (R161: the width is not stated). -/
opaque previewBinaryWidth : Nat

/-- The least number of hexadecimal digits of a byte (R161). -/
opaque previewHexWidth : Nat

/-- Are hexadecimal digits above 9 written in upper case (R161)? -/
opaque previewHexUpper : Bool

/-- The ASCII code of the character of a lit pixel (R161). -/
opaque previewLit : Fin 128

/-- How far, counted round the 128 codes from the one after the lit pixel's, the unlit pixel's code is: any other ASCII
character can be it (R161). -/
opaque previewUnlitOffset : Fin 127

/-- Which cell of the matrix, by its index in the BitSequence, stands at each place of the ASCII-art picture: the order is
in no source (R161). -/
opaque previewArtOrder : Equiv.Perm (Fin 64)

/-- The text before the cell at a place of the picture, and at place 64 what follows the last: line breaks, spacing, and
whatever else the picture of a matrix holds (R161). -/
opaque previewArtGap : Nat → PixelMatrix → Text

/-- The fixed explanatory footer: its first character and the rest (R160, R161). -/
opaque previewFooter : Char × Text

/-! Open parameter `FILE_NAMING` (R163, D23): what R163 leaves open of a file name (log entry 12). -/

/-- Which of the three parts of a file name, prefix, label, timestamp, stands at each place (R163). -/
opaque fileOrder : Equiv.Perm (Fin 3)

/-- The text before the part at a place of a file name, and at place 3 what follows the last: separators, extension
(R163). -/
opaque fileGap : Nat → FileName → Text

/-- The written form of a timestamp (R163). -/
opaque fileStamp : Nat → Text

/-- Open parameter `PATTERN_TABLE` (R166, D23): a static finite map from names to matrices. -/
opaque patternTable : List (Text × PixelMatrix)

/-- FREE VALUE: what the register array holds after the n-th loss of power, before a reset (R191; log entry 8). -/
opaque powerOnMatrix : Nat → PixelMatrix

end Config
end Sys2Proof
end

