-- ==== Sys2Proof/Syntax.lean ====
section
/-! DEFINITION. The ten commands of 30_encoding.md R60, one constructor per row of spec/opcode_table.json. -/

namespace Sys2Proof

/-- A command with its operands (R60). Rows and columns are 3-bit fields, so indices 0 to 7 (R63). -/
inductive Instr where
  /-- `CLR` (R93). -/
  | clr
  /-- `TGL r, c` (R94). -/
  | tgl (r c : Fin 8)
  /-- `SER` (R95). -/
  | ser
  /-- `DES imm64`: row byte `j` is `imm[j]` (R64, R96). -/
  | des (imm : Vector Byte 8)
  /-- `ENC` (R115). -/
  | enc
  /-- `RDC c` (R116). -/
  | rdc (c : Fin 8)
  /-- `RDR c`, `c` a column number (R117). -/
  | rdr (c : Fin 8)
  /-- `DEC n, bytes`; `n` is the list's length (R70, R143). -/
  | dec (raw : List Byte)
  /-- `RAS n, bytes`; `n` is the list's length (R70, R85). -/
  | ras (raw : List Byte)
  /-- `DMX cp, rp` (R148). -/
  | dmx (cp rp : Plane)
deriving DecidableEq, Repr

end Sys2Proof
end

