-- ==== Sys2Proof/WellFormed.lean ====
section
/-! DEFINITION. The commands that have an encoding: a format V payload fits its one length byte (30_encoding.md R65).
Every other operand is of a type that has only legal values (R63, R64, R65). -/

namespace Sys2Proof

/-- The checks on an instruction's operands: `n` in 0..255 for `DEC` and `RAS` (R65). -/
def Instr.wellFormed : Instr → Bool
  | .clr => true
  | .tgl _ _ => true
  | .ser => true
  | .des _ => true
  | .enc => true
  | .rdc _ => true
  | .rdr _ => true
  | .dec raw => decide (raw.length ≤ Config.maxPayload)
  | .ras raw => decide (raw.length ≤ Config.maxPayload)
  | .dmx _ _ => true

end Sys2Proof
end

