-- ==== Sys2Proof/Decode.lean ====
section
/-! DEFINITION. The command decoder, total on byte strings with its checks in the order of 30_encoding.md R68, the
encoder after it (R61 to R65), and the host's adapter for opcode-table words. -/

namespace Sys2Proof

/-- The three ways a byte string is no command (R67, R69). -/
inductive DecodeError where
  /-- `ERR_OPCODE`: byte 0 is none of the ten opcodes. -/
  | opcode
  /-- `ERR_OPERAND`: a reserved operand bit is not 0. -/
  | operand
  /-- `ERR_LENGTH`: the string has not the length its format requires, or is empty. -/
  | length
deriving DecidableEq, Repr

/-- What the decoder returns: a command with its operands, or one error (R68). -/
inductive Decoded where
  | cmd (i : Instr)
  | err (e : DecodeError)
deriving DecidableEq, Repr

/-- The six formats (R61). -/
inductive Format where
  | Z | A | C | Q | P | V
deriving DecidableEq, Repr

/-- The ten opcodes (R60). -/
inductive Opcode where
  | clr | tgl | ser | des | enc | rdc | rdr | dec | ras | dmx
deriving DecidableEq, Repr

/-- The opcode byte of R60's table. -/
def Opcode.byte : Opcode → Byte
  | .clr => 0x01#8
  | .tgl => 0x02#8
  | .ser => 0x10#8
  | .des => 0x11#8
  | .enc => 0x20#8
  | .rdc => 0x21#8
  | .rdr => 0x22#8
  | .dec => 0x30#8
  | .ras => 0x31#8
  | .dmx => 0x32#8

/-- The format of R60's table; the opcode alone fixes it (R61). -/
def Opcode.format : Opcode → Format
  | .clr => .Z
  | .tgl => .A
  | .ser => .Z
  | .des => .Q
  | .enc => .Z
  | .rdc => .C
  | .rdr => .C
  | .dec => .V
  | .ras => .V
  | .dmx => .P

/-- The opcode a byte names; the other 246 values name none (R69). -/
def Opcode.ofByte (b : Byte) : Option Opcode :=
  match b with
  | 0x01#8 => some .clr
  | 0x02#8 => some .tgl
  | 0x10#8 => some .ser
  | 0x11#8 => some .des
  | 0x20#8 => some .enc
  | 0x21#8 => some .rdc
  | 0x22#8 => some .rdr
  | 0x30#8 => some .dec
  | 0x31#8 => some .ras
  | 0x32#8 => some .dmx
  | _ => none

/-- How many bytes follow the opcode byte, given those that do; none when format V lacks its length byte (R61, R68). -/
def Format.argLength : Format → List Byte → Option Nat
  | .Z, _ => some 0
  | .A, _ => some 1
  | .C, _ => some 1
  | .Q, _ => some 8
  | .P, _ => some 16
  | .V, [] => none
  | .V, n :: _ => some (1 + n.toNat)

/-- The slice of `len` bits of `b` from bit `lo` up, as a number (R8). -/
def bitSlice (b : Byte) (lo len : Nat) : Nat := b.toNat / 2 ^ lo % 2 ^ len

/-- The row field of format A, bits 5:3 (R63). -/
def rowField (b : Byte) : Fin 8 := Fin.ofNat 8 (bitSlice b 3 3)

/-- The column field of formats A and C, bits 2:0 (R63). -/
def colField (b : Byte) : Fin 8 := Fin.ofNat 8 (bitSlice b 0 3)

/-- The operand byte `k` places after the opcode byte. -/
def argByte (args : List Byte) (k : Nat) : Byte := args.getD k 0#8

/-- Eight operand bytes from place `k` on, in ascending order (R64, R65). -/
def argPlane (args : List Byte) (k : Nat) : Vector Byte 8 := Vector.ofFn fun j => argByte args (k + j.val)

/-- Are the reserved operand bits 0: bits 7:6 in format A, 7:3 in format C (R63, R69)? -/
def Format.reservedZero : Format → List Byte → Bool
  | .A, args => bitSlice (argByte args 0) 6 2 == 0
  | .C, args => bitSlice (argByte args 0) 3 5 == 0
  | _, _ => true

/-- The command with the fields of R62 to R65. -/
def Opcode.build (op : Opcode) (args : List Byte) : Instr :=
  match op with
  | .clr => .clr
  | .tgl => .tgl (rowField (argByte args 0)) (colField (argByte args 0))
  | .ser => .ser
  | .des => .des (argPlane args 0)
  | .enc => .enc
  | .rdc => .rdc (colField (argByte args 0))
  | .rdr => .rdr (colField (argByte args 0))
  | .dec => .dec args.tail
  | .ras => .ras args.tail
  | .dmx => .dmx (argPlane args 0) (argPlane args 8)

/-- The command decoder: opcode, then length, then reserved bits; the first check that fails decides (R68, R174). -/
def decodeCommand (w : List Byte) : Decoded :=
  match w with
  | [] => .err .length
  | b :: args =>
    match Opcode.ofByte b with
    | none => .err .opcode
    | some op =>
      if op.format.argLength args = some args.length then
        if op.format.reservedZero args then .cmd (op.build args) else .err .operand
      else .err .length

/-- The bytes of a command (R60 to R65); `DEC` and `RAS` get their list's length as `n` (R70). -/
def encode : Instr → List Byte
  | .clr => [0x01#8]
  | .tgl r c => [0x02#8, BitVec.ofNat 8 (r.val * 8 + c.val)]
  | .ser => [0x10#8]
  | .des imm => 0x11#8 :: imm.toList
  | .enc => [0x20#8]
  | .rdc c => [0x21#8, BitVec.ofNat 8 c.val]
  | .rdr c => [0x22#8, BitVec.ofNat 8 c.val]
  | .dec raw => 0x30#8 :: BitVec.ofNat 8 raw.length :: raw
  | .ras raw => 0x31#8 :: BitVec.ofNat 8 raw.length :: raw
  | .dmx cp rp => 0x32#8 :: (cp.toList ++ rp.toList)

/-- `n` bytes of the number `w`, most significant first: the numbering in which spec/opcode_table.json gives a
two-byte row (its opcode in bits 15:8). -/
def bytesBigEnd : Nat → Nat → List Byte
  | 0, _ => []
  | n + 1, w => BitVec.ofNat 8 (w / 2 ^ (8 * n)) :: bytesBigEnd n w

/-- The bytes a table word of `nbits` bits stands for. The table numbers a row as one number with byte 0 in its
highest bits; where the byte found there is no opcode, byte 0 is taken from bits 7:0 and the later bytes count on.
Log entry 5. -/
def tableLead (nbits w : Nat) : List Byte :=
  let n := (nbits + 7) / 8
  let bytes := bytesBigEnd n (w % 2 ^ nbits)
  match Opcode.ofByte (argByte bytes 0) with
  | some _ => bytes
  | none => bytes.reverse

/-- The whole command string of a table word: its bytes, then the operand bytes the table gives no bits, all 0. -/
def tableBytes (nbits w : Nat) : List Byte :=
  let lead := tableLead nbits w
  match lead with
  | [] => []
  | b :: args =>
    match Opcode.ofByte b with
    | none => lead
    | some op =>
      let need := (op.format.argLength (args ++ [0#8])).getD 0
      lead ++ List.replicate (need - args.length) 0#8

/-- The command this decoder reads from an opcode-table word; none where it refuses (the host's fixed name). -/
def decodeTableWord (nbits w : Nat) : Option Instr :=
  match decodeCommand (tableBytes nbits w) with
  | .cmd i => some i
  | .err _ => none

end Sys2Proof
end

