-- ==== Sys2Proof/Machine/State.lean ====
section
/-! DEFINITION. The state of the block and of its host as plain data, its named updates, the reset state, and the
fault and refusal reasons. -/

namespace Sys2Proof.Machine

/-- Outcome codes (30_encoding.md R67, 60_exceptions.md R171). -/
inductive OutcomeCode where
  /-- `OK`, 0x00: the command was performed. -/
  | ok
  /-- `ERR_OPCODE`, 0x01, by the block's decoder. -/
  | errOpcode
  /-- `ERR_OPERAND`, 0x02, by the block's decoder. -/
  | errOperand
  /-- `ERR_LENGTH`, 0x03, by the block's decoder. -/
  | errLength
  /-- `VALIDATION_INVALID_CHARSET`, 0x10, by the host's gate. -/
  | validationInvalidCharset
  /-- `VALIDATION_TOO_LONG`, 0x11, by the host's gate. -/
  | validationTooLong
  /-- `DECODE_ERROR`, 0x20, by the host's text-mode decode. -/
  | decodeError
  /-- `FILE_ACCESS_FAILURE`, 0x30, by the storage medium. -/
  | fileAccessFailure
deriving DecidableEq, Repr

/-- A payload: bytes, or for `RAS` a bit sequence (R66). -/
inductive Payload where
  | bytes (b : List Byte)
  | bits (b : RawBits)
deriving DecidableEq, Repr

/-- One response: an outcome code and a payload (R66), and the reason string a host-side outcome records (R171). -/
structure Response where
  code : OutcomeCode
  payload : Payload
  /-- R171's "value recorded"; none for every outcome of the block. It is no part of the response's bytes. -/
  reason : Option Text
deriving DecidableEq, Repr

/-- The two reasons of the validation gate: "invalid character set." and "too long." (R131). -/
inductive Rejection where
  | invalidCharset
  | tooLong
deriving DecidableEq, Repr

/-- A saved pattern: the 8 bytes of `SER` with a name and a time (R166). -/
structure Pattern where
  name : Text
  time : Nat
  rows : List Byte
deriving DecidableEq, Repr

/-- An export file the medium has accepted: the ingredients of its name, and its bytes (R33, R163). -/
structure ExportFile where
  name : FileName
  bytes : List Byte
deriving DecidableEq, Repr

/-- A string handed to the user (R162). -/
inductive Shown where
  /-- The rendered preview (R160). -/
  | preview (t : Text)
  /-- The string of a text-mode import (R150). -/
  | importedText (t : Text)
deriving DecidableEq, Repr

/-- What the medium answers to a read: a fully formed buffer or a failure (R47, R165). -/
inductive FileRead where
  | delivered (raw : List Byte)
  | failed
deriving DecidableEq, Repr

/-- What the medium answers to a write (R67, R175). -/
inductive FileWrite where
  | accepted
  | failed
deriving DecidableEq, Repr

/-- The host's actions and the events between commands, in the order in which they happen (R16, R162, R167). R162's
clear and its restore from exported planes are one command each, with no host-side step and in either mode: they come as
`command`. -/
inductive Input where
  /-- The host presents any byte string as a command (R61, R167). -/
  | command (w : List Byte)
  /-- The reset event (R190). -/
  | reset
  /-- Loss of power: `M` does not survive (R183). -/
  | powerLoss
  /-- Two commands at the same time, from two hosts or one (R45, U11). -/
  | overlap (w₁ w₂ : List Byte)
  /-- A text edit: the gate in either mode, then `TXT` in text mode (R71, R132, R162, R164). -/
  | textEdit (t : Text)
  /-- A direct call of the host-level `rasterize` (R83, R86). -/
  | rasterize (t : Text)
  /-- Import of a file, in the current mode (R71 `IMP`, R150, R164). -/
  | importFile (a : FileRead)
  /-- A pixel toggle (R162), done by draw mode (R164). -/
  | togglePixel (r c : Fin 8)
  /-- `LDP name` (R71), done by draw mode (R164). -/
  | loadPattern (name : Text)
  /-- `SETM M0` (R71). -/
  | setMatrix (X : PixelMatrix)
  /-- `EXP` at a time, with the medium's answer (R71, R163). -/
  | exportPlanes (time : Nat) (a : FileWrite)
  /-- Preview (R160, R162). -/
  | preview
  /-- Save the picture under a name, at a time (R166). -/
  | savePattern (name : Text) (time : Nat)
  /-- Load the k-th saved pattern, in save order (R166), done by draw mode (R164). -/
  | loadSaved (k : Nat)
  /-- Tab switch: the other mode, and the matrix discarded (R162, R164). -/
  | tabSwitch
deriving DecidableEq, Repr

/-- Has the block been reset since it got power (R183, R191)? -/
inductive Power where
  | running
  | unreset
deriving DecidableEq, Repr

/-- The machine. `m` is the block's only state (10_state.md R10); the other fields are the host's, or records and
queues of what crosses the interface (INVENTORY.md, State). -/
structure State where
  /-- The matrix register `M` (R10). -/
  m : PixelMatrix
  /-- Reset since power-up (R191; log entry 8). -/
  power : Power
  /-- The model's counter for `Config.powerOnMatrix` (log entry 8). -/
  freeIndex : Nat
  /-- The host's pending actions, the next one first (R16; log entry 1). -/
  inputs : List Input
  /-- Responses and host-side outcomes so far, oldest first (R66, R168; log entry 3). -/
  responses : List Response
  /-- The gate's current rejection (R133). -/
  rejection : Option Rejection
  /-- The current ValidatedText: the candidate the gate accepted last, a rejected one is not stored (R130, R133). The gate
  runs on it again before a preview or an export (R132; log entry 25). -/
  text : Text
  /-- The saved-pattern list, in save order (R166). -/
  saved : List Pattern
  /-- The application's mode (R164). -/
  mode : AppMode
  /-- The files the medium has accepted (R33, R163). -/
  files : List ExportFile
  /-- The strings handed to the user (R160, R162). -/
  shown : List Shown
deriving DecidableEq, Repr

/-- Reasons a step stops with a fault: none. "Fault: none inside the block; an error outcome is a normal response, not
a fault" (60_exceptions.md R184). -/
inductive Fault where
deriving DecidableEq, Repr

/-- Reasons a step has no meaning (60_exceptions.md R184). Every one is safe: nothing can be claimed past it. -/
inductive Refusal where
  /-- An instruction that has no meaning yet. No arm of `exec` raises it. Safe. -/
  | notModelled (mnemonic : String)
  /-- Raised by the input `overlap`: two hosts at once "must be refused by a model" (R45). Safe. -/
  | overlappingCommands
  /-- Raised by the input `rasterize` on a text the gate rejects (R86, U1). Safe. -/
  | unvalidatedText
  /-- Raised by a command presented to a block that was not reset since it got power (R191, U10). Safe. -/
  | notReset
  /-- Raised by `loadPattern` or `loadSaved` where no such pattern exists; the spec says nothing of it (log entry 11).
  Safe. -/
  | noSuchPattern
deriving DecidableEq, Repr

/-- The outcome of a step of this machine. -/
abbrev Result := Host.Outcome State Fault Refusal

namespace State

/-- The blank matrix, all cells unlit. -/
def blank : PixelMatrix := PixelMatrix.ofCells fun _ _ => false

/-- The machine right after reset (R21, R190). The values the spec does not state: `inputs`,
`responses`, `mode`, `freeIndex`, `shown`, `files` and `text`, log entries 1, 3, 7, 8, 12, 13 and 25. -/
def reset : State where
  m := blank
  power := .running
  freeIndex := 0
  inputs := []
  responses := []
  rejection := none
  text := []
  saved := []
  mode := .draw
  files := []
  shown := []

/-- The state with another matrix. -/
def withMatrix (s : State) (X : PixelMatrix) : State := { s with m := X }

/-- The state with one more response on the record. -/
def record (s : State) (r : Response) : State := { s with responses := s.responses ++ [r] }

/-- The state with other pending inputs. -/
def withInputs (s : State) (l : List Input) : State := { s with inputs := l }

/-- The state with another rejection. -/
def withRejection (s : State) (r : Option Rejection) : State := { s with rejection := r }

/-- The state with another current text. -/
def withText (s : State) (t : Text) : State := { s with text := t }

/-- The state with another saved-pattern list. -/
def withSaved (s : State) (l : List Pattern) : State := { s with saved := l }

/-- The state in another mode. -/
def withMode (s : State) (k : AppMode) : State := { s with mode := k }

/-- The state with two more accepted files. -/
def addFiles (s : State) (l : List ExportFile) : State := { s with files := s.files ++ l }

/-- The state with one more string handed to the user. -/
def addShown (s : State) (x : Shown) : State := { s with shown := s.shown ++ [x] }

/-- The state with another power phase. -/
def withPower (s : State) (p : Power) : State := { s with power := p }

/-- The state with the next free index. -/
def nextFree (s : State) : State := { s with freeIndex := s.freeIndex + 1 }

end State
end Sys2Proof.Machine
end

