-- ==== Sys2Proof/Machine/Operands.lean ====
section
/-! DEFINITION. Bytes and bits: the serialiser (40_byte_serializer.md R80, R81), row-byte packing (30_encoding.md R54),
and the two weights of 20_memory.md R36 and R37. -/

namespace Sys2Proof.Machine

/-- The weight exponent of row bit `r` in a RowPlane byte: bit `r` has weight `2^r` (R36, decision D9). The only
place where it is said. -/
def rowBitIndex (r : Fin 8) : Nat := r.val

/-- The weight exponent of the `i`-th serialised bit of a byte: most significant bit first (R37). -/
def msbIndex (i : Fin 8) : Nat := 7 - i.val

/-- The or of the bits `2^(weight i)` for the `i` at which `f` holds (R54, R110, R111). -/
def orBits (weight : Fin 8 → Nat) (f : Fin 8 → Bool) : Byte :=
  (List.finRange 8).foldl (fun v i => if f i then v ||| (1#8 <<< weight i) else v) 0#8

/-- The 8 bits of a byte, most significant first (R8, R37). -/
def byteBits (v : Byte) : RawBits := (List.finRange 8).map fun i => v.getLsbD (msbIndex i)

/-- `bytesToBits`: every byte's 8 bits most significant first, bytes in ascending index order; not cut (R80). -/
def bytesToBits (bytes : List Byte) : RawBits := bytes.flatMap byteBits

/-- `fit64`: padded with 0, or cut, to 64 bits (R81). -/
def fit64 (S : RawBits) : BitSequence := Vector.ofFn fun k => S.getD k.val false

/-- `rowbyte(B, j)`: byte `j` carries row `j`, its bit `7-c` column `c` (R54). -/
def packRow (B : BitSequence) (j : Fin 8) : Byte :=
  orBits msbIndex fun c => B.get ⟨8 * j.val + c.val, by omega⟩

/-- `pack64` (R54). -/
def pack64 (B : BitSequence) : List Byte := (List.finRange 8).map (packRow B)

/-- Bits packed most significant first, a whole byte at a time: how a bit payload reads as bytes (R66). -/
def packBits : RawBits → List Byte
  | b₀ :: b₁ :: b₂ :: b₃ :: b₄ :: b₅ :: b₆ :: b₇ :: rest =>
    orBits msbIndex (fun i => [b₀, b₁, b₂, b₃, b₄, b₅, b₆, b₇].getD i.val false) :: packBits rest
  | _ => []

/-- The code byte of R67's table. -/
def OutcomeCode.toByte : OutcomeCode → Byte
  | .ok => 0x00#8
  | .errOpcode => 0x01#8
  | .errOperand => 0x02#8
  | .errLength => 0x03#8
  | .validationInvalidCharset => 0x10#8
  | .validationTooLong => 0x11#8
  | .decodeError => 0x20#8
  | .fileAccessFailure => 0x30#8

/-- The reason string of a rejection, `Rejected(reason)` (R131). -/
def Rejection.reason : Rejection → Text
  | .invalidCharset => "invalid character set.".toList
  | .tooLong => "too long.".toList

/-- The value recorded with an outcome by R171's table: the source's reason string, where there is one. -/
def OutcomeCode.reason : OutcomeCode → Option Text
  | .ok => none
  | .errOpcode => none
  | .errOperand => none
  | .errLength => none
  | .validationInvalidCharset => some Rejection.invalidCharset.reason
  | .validationTooLong => some Rejection.tooLong.reason
  | .decodeError => some "invalid byte sequence for target encoding".toList
  | .fileAccessFailure => none

/-- The payload as bytes (R66). -/
def Payload.toBytes : Payload → List Byte
  | .bytes b => b
  | .bits b => packBits b

/-- A response as a byte string: `[code] ++ payload bytes` (R66). -/
def Response.toBytes (r : Response) : List Byte := r.code.toByte :: r.payload.toBytes

end Sys2Proof.Machine
end

