-- ==== Sys2Proof/Machine/Flags.lean ====
section
/-! DEFINITION. The block has no flag, condition code or status register (10_state.md R17, R18). The one condition it
computes, per-column activity, is an intermediate of the encoder and kept nowhere (R15). -/

namespace Sys2Proof.Machine

/-- `active[c] = OR_{r=0..7} X[r][c]` (R15, R110 step 1). -/
def active (X : PixelMatrix) (c : Fin 8) : Bool := (List.finRange 8).any fun r => X.cell r c

end Sys2Proof.Machine
end

