-- ==== Sys2Proof/Machine/Ops.lean ====
section
/-! DEFINITION. The operations the commands share: matrix codec (41_matrix_codec.md R90, R91), EPROM encoder
(42_eprom_encoder.md R110), EPROM decoder and plane demultiplexer (44_eprom_decoder.md R140, R145 to R147), the read of
a plane byte, responding, and raising an error outcome (30_encoding.md R66, 60_exceptions.md R176). -/

namespace Sys2Proof.Machine

/-- The column of index `k` in a BitSequence, `k mod 8` (R50). -/
def bitCol (k : Fin 64) : Fin 8 := ⟨k.val % 8, by omega⟩

/-- The row of index `k` in a BitSequence, `k div 8` (R50). -/
def bitRow (k : Fin 64) : Fin 8 := ⟨k.val / 8, by omega⟩

/-- `toBits` (R90). -/
def toBits (X : PixelMatrix) : BitSequence := Vector.ofFn fun k => X.cell (bitRow k) (bitCol k)

/-- `fromBits`: row-major; missing entries are 0, entries from 64 on are not read (R91). -/
def fromBits (S : RawBits) : PixelMatrix :=
  PixelMatrix.ofCells fun r c => S.getD (r.val * 8 + c.val) false

/-- The matrix with the one cell `(r, c)` complemented (R94). -/
def toggleCell (X : PixelMatrix) (r c : Fin 8) : PixelMatrix :=
  PixelMatrix.ofCells fun r' c' => if r' = r ∧ c' = c then !X.cell r' c' else X.cell r' c'

/-- Step 2 of `encode`: `(~(1 << c)) & 0xFF` for an active column, else the idle byte `0xFF` (R110, R111). -/
def columnByte (X : PixelMatrix) (c : Fin 8) : Byte :=
  if active X c then ~~~(1#8 <<< c.val) else 0xFF#8

/-- Step 3 of `encode`: bit `r` is 1 exactly when `X[r][c]` is unlit (R110). -/
def rowByte (X : PixelMatrix) (c : Fin 8) : Byte := orBits rowBitIndex fun r => !X.cell r c

/-- The ColumnPlane of a matrix (R14, R30). -/
def columnPlane (X : PixelMatrix) : Plane := Vector.ofFn (columnByte X)

/-- The RowPlane of a matrix (R14, R31). -/
def rowPlane (X : PixelMatrix) : Plane := Vector.ofFn (rowByte X)

/-- `encode` of the EPROM encoder: both planes of the whole matrix (R110). -/
def encodePlanes (X : PixelMatrix) : Plane × Plane := (columnPlane X, rowPlane X)

/-- `PlaneRead`: byte `c` of a plane view; every address of 3 bits exists (R8, R30, R31, R35). -/
def planeRead (p : PlaneId) (c : Fin 8) (X : PixelMatrix) : Byte :=
  match p with
  | .columns => (encodePlanes X).1.get c
  | .rows => (encodePlanes X).2.get c

/-- The bit view `BITS` (R13). -/
def State.bits (s : State) : BitSequence := toBits s.m

/-- `decodeMatrix`: the first 64 bits of at most the first 64 bytes (R140). -/
def decodeMatrix (raw : List Byte) : PixelMatrix :=
  fromBits ((bytesToBits (raw.take Config.importLen)).take Config.nbits)

/-- `rowsToMatrix` (R145). -/
def rowsToMatrix (rp : Plane) : PixelMatrix :=
  PixelMatrix.ofCells fun r c => !(rp.get c).getLsbD (rowBitIndex r)

/-- `image64`, the import image of a matrix (R146, D12). -/
def image64 (X : PixelMatrix) : List Byte := pack64 (toBits X) ++ List.replicate 56 0#8

/-- `display`: the picture a column-scanned display shows for a plane pair (R147). -/
def display (cp rp : Plane) : PixelMatrix :=
  PixelMatrix.ofCells fun r k => (List.finRange 8).any fun pos =>
    !(cp.get pos).getLsbD k.val && !(rp.get pos).getLsbD (rowBitIndex r)

/-- `respond(code, payload)`: one response, given to the host, with the value R171 lets its code record (R66, R171). -/
def respond (code : OutcomeCode) (payload : Payload) (s : State) : Result :=
  .next (s.record ⟨code, payload, code.reason⟩)

/-- The outcome code of a decoder error (R67). -/
def errorCode : DecodeError → OutcomeCode
  | .opcode => .errOpcode
  | .operand => .errOperand
  | .length => .errLength

/-- `raise`: an error outcome is a response with an empty payload and no change of state; nothing is saved, no handler
runs, nothing is to be returned from (R8, R176, R177). -/
def raise (e : DecodeError) (s : State) : Result := respond (errorCode e) (.bytes []) s

/-- One action after another, where the first one answers a next state. -/
def andThen (x : Result) (f : State → Result) : Result :=
  match x with
  | .next s => f s
  | .fault r => .fault r
  | .refused r => .refused r

end Sys2Proof.Machine
end

