-- ==== Sys2Proof/Machine/Codec.lean ====
section
/-! DEFINITION. The matrix codec's commands, `CLR`, `TGL`, `SER`, `DES` (41_matrix_codec.md). -/

namespace Sys2Proof.Machine

/-- `CLR`: every cell 0 (R93). -/
def execClr (s : State) : Result := respond .ok (.bytes []) (s.withMatrix State.blank)

/-- `TGL r, c`: one cell complemented (R94). -/
def execTgl (r c : Fin 8) (s : State) : Result := respond .ok (.bytes []) (s.withMatrix (toggleCell s.m r c))

/-- `SER`: the bit view as 8 row bytes; `M` unchanged (R95). -/
def execSer (s : State) : Result := respond .ok (.bytes (pack64 (toBits s.m))) s

/-- `DES imm64`: the matrix of the 64 bits the 8 operand bytes spell (R64, R96). -/
def execDes (imm : Vector Byte 8) (s : State) : Result :=
  respond .ok (.bytes []) (s.withMatrix (fromBits (bytesToBits imm.toList)))

end Sys2Proof.Machine
end

