-- ==== Sys2Proof/Machine/Decoder.lean ====
section
/-! DEFINITION. The EPROM decoder's and the plane demultiplexer's commands, `DEC`, `DMX` (44_eprom_decoder.md). -/

namespace Sys2Proof.Machine

/-- `DEC n, bytes`: the matrix of a raw import buffer (R143). -/
def execDec (raw : List Byte) (s : State) : Result := respond .ok (.bytes []) (s.withMatrix (decodeMatrix raw))

/-- `DMX cp, rp`: the matrix a plane pair displays (R148). -/
def execDmx (cp rp : Plane) (s : State) : Result := respond .ok (.bytes []) (s.withMatrix (display cp rp))

end Sys2Proof.Machine
end

