-- ==== Sys2Proof/Machine/Encoder.lean ====
section
/-! DEFINITION. The EPROM encoder's commands, `ENC`, `RDC`, `RDR` (42_eprom_encoder.md). -/

namespace Sys2Proof.Machine

/-- `ENC`: both planes of one snapshot of `M`, the column plane first; `M` unchanged (R115). -/
def execEnc (s : State) : Result :=
  respond .ok (.bytes ((encodePlanes s.m).1.toList ++ (encodePlanes s.m).2.toList)) s

/-- `RDC c`: the byte `CP[c]`; `M` unchanged (R116). -/
def execRdc (c : Fin 8) (s : State) : Result := respond .ok (.bytes [planeRead .columns c s.m]) s

/-- `RDR c`: the byte `RP[c]`; `M` unchanged (R117). -/
def execRdr (c : Fin 8) (s : State) : Result := respond .ok (.bytes [planeRead .rows c s.m]) s

end Sys2Proof.Machine
end

