-- ==== Sys2Proof/Machine/Serializer.lean ====
section
/-! DEFINITION. The byte serialiser's command, `RAS` (40_byte_serializer.md). -/

namespace Sys2Proof.Machine

/-- `RAS n, bytes`: the `8n` bits of the bytes, never cut; `M` unchanged (R85). -/
def execRas (raw : List Byte) (s : State) : Result := respond .ok (.bits (bytesToBits raw)) s

end Sys2Proof.Machine
end

