-- ==== Sys2Proof/Machine/Dispatch.lean ====
section
/-! DEFINITION. exec: one arm per command, each one direct call of its meaning (30_encoding.md R60). -/

namespace Sys2Proof.Machine

def exec (i : Instr) (s : State) : Host.Outcome State Fault Refusal :=
  match i with
  | .clr => Sys2Proof.Machine.execClr s
  | .tgl r c => Sys2Proof.Machine.execTgl r c s
  | .ser => Sys2Proof.Machine.execSer s
  | .des imm => Sys2Proof.Machine.execDes imm s
  | .enc => Sys2Proof.Machine.execEnc s
  | .rdc c => Sys2Proof.Machine.execRdc c s
  | .rdr c => Sys2Proof.Machine.execRdr c s
  | .dec raw => Sys2Proof.Machine.execDec raw s
  | .ras raw => Sys2Proof.Machine.execRas raw s
  | .dmx cp rp => Sys2Proof.Machine.execDmx cp rp s

end Sys2Proof.Machine
end

