-- ==== Sys2Proof/Machine/Gate.lean ====
section
/-! DEFINITION. The host's text functions: upper-casing and character bytes (40_byte_serializer.md R82 to R84), and the
validation gate (43_validation_gate.md R130 to R134). -/

namespace Sys2Proof.Machine

/-- `a` to `z` become `A` to `Z`, every other character stays (R82). -/
def upperChar (c : Char) : Char :=
  if 0x61 ≤ c.toNat ∧ c.toNat ≤ 0x7A then Char.ofNat (c.toNat - 0x20) else c

/-- `upper` (R82). -/
def upper (t : Text) : Text := t.map upperChar

/-- Is the character one of the 37 of `[A-Z0-9 ]` (R130)? -/
def admitted (c : Char) : Bool :=
  (decide (0x41 ≤ c.toNat) && decide (c.toNat ≤ 0x5A)) ||
    (decide (0x30 ≤ c.toNat) && decide (c.toNat ≤ 0x39)) || c == ' '

/-- `validate`: none is Accepted; the character set is checked before the length (R131). -/
def validate (t : Text) : Option Rejection :=
  if (upper t).all admitted then
    if Config.textMax < t.length then some .tooLong else none
  else some .invalidCharset

/-- The outcome code of a rejection (R67, R131). -/
def rejectionCode : Rejection → OutcomeCode
  | .invalidCharset => .validationInvalidCharset
  | .tooLong => .validationTooLong

/-- The byte of a character by R55's ASCII table (log entry 17); used on admitted characters only (R86, U5). -/
def charByte (c : Char) : Byte := BitVec.ofNat 8 c.toNat

/-- The bytes of a text as the host sends them: `charBytes(upper(text))` (R83). -/
def textBytes (t : Text) : List Byte := (upper t).map charByte

/-- `rasterize` (R83); none on a text that has not passed validation, where the spec gives it no meaning (R86). -/
def rasterize (t : Text) : Option RawBits :=
  match validate t with
  | none => some (bytesToBits (textBytes t))
  | some _ => none

/-- `textMatrix`: the matrix a validated text renders to (R84). DESIGN CHOICE, log entry 28: the spec gives it no meaning
on a text that has not passed validation (R86, U1, U5); its value there only makes the function total, and no host action
uses it. -/
def textMatrix (t : Text) : PixelMatrix := fromBits (bytesToBits (textBytes t))

end Sys2Proof.Machine
end

