-- ==== Sys2Proof/Machine/Preview.lean ====
section
/-! DEFINITION. The strings the host writes: the preview (45_preview_and_host.md R160, R161) and the names of the export
files (R163). What the rules state is in the definitions, what they leave open is in Config. -/

namespace Sys2Proof.Machine

/-- How many digits a number needs, `0` needing one; the fuel is the greatest count less one. -/
def digitCount (base : Nat) : Nat → Nat → Nat
  | 0, _ => 1
  | fuel + 1, v => if v < base then 1 else digitCount base fuel (v / base) + 1

/-- The `n` lowest digits of a number, most significant first. -/
def digits (base : Nat) : Nat → Nat → List Nat
  | 0, _ => []
  | n + 1, v => digits base n (v / base) ++ [v % base]

/-- The digits of a byte, `width` of them or as many more as it needs. -/
def byteDigits (base width : Nat) (b : Byte) : List Nat :=
  digits base (max width (digitCount base 7 b.toNat)) b.toNat

/-- The character of a digit below 16. -/
def digitChar (upperCase : Bool) (d : Nat) : Char :=
  if d < 10 then Char.ofNat (0x30 + d)
  else if upperCase then Char.ofNat (0x41 + (d - 10)) else Char.ofNat (0x61 + (d - 10))

/-- A byte in binary (R160; log entry 26). -/
def binaryText (b : Byte) : Text :=
  (byteDigits 2 Config.previewBinaryWidth b).map (digitChar Config.previewHexUpper)

/-- A byte in hexadecimal (R160; log entry 26). -/
def hexText (b : Byte) : Text :=
  (byteDigits 16 Config.previewHexWidth b).map (digitChar Config.previewHexUpper)

/-- The character of a pixel, lit or unlit; the two differ (log entry 26). -/
def pixelChar (lit : Bool) : Char :=
  if lit then Char.ofNat Config.previewLit.val
  else Char.ofNat ((Config.previewLit.val + 1 + Config.previewUnlitOffset.val) % 128)

/-- A text put together: at each of `n` places a gap and the piece the order puts there, and a gap after the last. -/
def assemble {n : Nat} (order : Equiv.Perm (Fin n)) (gap : Nat → Text) (pieces : List Text) : Text :=
  ((List.finRange n).flatMap fun i => gap i.val ++ pieces.getD (order i).val []) ++ gap n

/-- The ASCII-art rendition of the matrix: a character for each cell, in the open order, among open texts, which may
depend on the matrix (R160, R161; log entry 26). -/
def artText (X : PixelMatrix) : Text :=
  assemble Config.previewArtOrder (fun i => Config.previewArtGap i X) ((toBits X).toList.map fun b => [pixelChar b])

/-- The fixed explanatory footer (R160). -/
def footerText : Text := Config.previewFooter.1 :: Config.previewFooter.2

/-- Per column, a plane's byte in binary and in hexadecimal (R160). -/
def planeTexts (p : List Byte) : List Text :=
  (List.finRange 8).flatMap fun c => [binaryText (p.getD c.val 0#8), hexText (p.getD c.val 0#8)]

/-- The 34 pieces of a preview, in the order in which R160 names them. -/
def previewPieces (cp rp : List Byte) (X : PixelMatrix) : List Text :=
  planeTexts cp ++ planeTexts rp ++ [artText X, footerText]

/-- `render(columnPlane, rowPlane, matrix)`: every piece once, in the open order, among open texts (R160, R161; log entry 26). -/
def render (cp rp : List Byte) (X : PixelMatrix) : Text :=
  assemble Config.previewOrder (fun i => Config.previewGap i cp rp X) (previewPieces cp rp X)

/-- The mode prefix of a file name (R163). -/
def modePrefix : AppMode → Text
  | .text => "text".toList
  | .draw => "drawing".toList

/-- The fixed label of a file name (R163). -/
def planeLabel : PlaneId → Text
  | .columns => "eprom1-columns".toList
  | .rows => "eprom2-rows".toList

/-- The three parts of a file name, in the order in which R163 names them. -/
def nameParts (f : FileName) : List Text := [modePrefix f.pre, planeLabel f.label, Config.fileStamp f.stamp]

/-- The written name: every part once, in the open order, among open texts (R163; log entry 27). -/
def writtenName (f : FileName) : Text :=
  assemble Config.fileOrder (fun i => Config.fileGap i f) (nameParts f)

end Sys2Proof.Machine
end

