-- ==== Sys2Proof/Machine/Host.lean ====
section
/-! DEFINITION. The host and the medium as agents: presenting a command to the block, and every host action of
30_encoding.md R71 and 45_preview_and_host.md R162 to R166. -/

namespace Sys2Proof.Machine

/-- The block is given one command string: it decodes and performs it, or raises the decoder's error (R66, R68). A block
that was never reset is refused (R191). -/
def present (w : List Byte) (s : State) : Result :=
  match s.power with
  | .unreset => .refused .notReset
  | .running =>
    match decodeCommand w with
    | .cmd i => exec i s
    | .err e => raise e s

/-- The bytes of the last response, as the host reads them. -/
def lastPayload (s : State) : List Byte :=
  match s.responses.getLast? with
  | some r => r.payload.toBytes
  | none => []

/-- The host reports an error of its own, once, with no command; the reason string is recorded (R170, R171). -/
def reportHost (code : OutcomeCode) (s : State) : Result := respond code (.bytes []) s

/-- Everything R21's table gives a reset value takes it; the host's mode, pending actions and records stay (log entry 6), the
text goes with the matrix (DEDUCED, log entry 30). -/
def resetEvent (s : State) : Result :=
  .next (((((s.withMatrix State.blank).withText []).withPower .running).withRejection none).withSaved [])

/-- The block loses power: `M` does not survive, and the block is refused until reset (R183, R191; log entry 8). -/
def losePower (s : State) : Result :=
  .next (((s.withMatrix (Config.powerOnMatrix s.freeIndex)).nextFree).withPower .unreset)

/-- What belongs to one mode: the mode decides whether the matrix comes from `TXT` or from `TGL` and `LDP` (R164). In the
other mode no command is issued (log entry 19). -/
def inMode (k : AppMode) (f : State → Result) (s : State) : Result :=
  if s.mode = k then f s else .next s

/-- A run of the gate on a text: a rejection is kept and reported, and no command is issued; acceptance clears it and what
depends on it goes on (R131, R132, R133). -/
def runGate (t : Text) (f : State → Result) (s : State) : Result :=
  match validate t with
  | some r => reportHost (rejectionCode r) (s.withRejection (some r))
  | none => f (s.withRejection none)

/-- `TXT`: `DEC` with the bytes of a text (R71, R84). -/
def issueText (t : Text) (s : State) : Result := present (encode (.dec (textBytes t))) s

/-- A text edit: the gate runs on every one (R132); an accepted text is stored (R133) and in text mode issued as `TXT` (R71,
R164; in draw mode no command, log entry 19). -/
def textEdit (t : Text) (s : State) : Result :=
  runGate t (fun u => inMode .text (issueText t) (u.withText t)) s

/-- The host-level `rasterize`: the host spells the characters, the block serialises (R83); refused on a text that does
not pass validation (R86). -/
def rasterizeText (t : Text) (s : State) : Result :=
  match validate t with
  | some _ => .refused .unvalidatedText
  | none => present (encode (.ras (textBytes t))) s

/-- `IMP file`: `DEC` with the first `min(len, 255)` bytes (R65, R71). -/
def importMatrix (raw : List Byte) (s : State) : Result :=
  present (encode (.dec (raw.take Config.maxPayload))) s

/-- Text-mode import: the whole buffer through TEXT_DECODER, no command, `M` unmodified (R150, R151). DESIGN CHOICE, log
entry 29: whether the string then passes the validation gate is in no source (R150, N9); it is shown, no gate runs on it. -/
def importText (raw : List Byte) (s : State) : Result :=
  match Config.textDecoder raw with
  | some t => .next (s.addShown (.importedText t))
  | none => reportHost .decodeError s

/-- Import of a file: the mode is the target mode (R164); no command on a file-access failure (R71, R175). -/
def importFile (a : FileRead) (s : State) : Result :=
  match a with
  | .failed => reportHost .fileAccessFailure s
  | .delivered raw =>
    match s.mode with
    | .draw => importMatrix raw s
    | .text => importText raw s

/-- `SETM M0`: `DES pack64(toBits(M0))` (R71). -/
def setMatrix (X : PixelMatrix) (s : State) : Result := present (0x11#8 :: pack64 (toBits X)) s

/-- A pixel toggle: `TGL r, c` (R162). -/
def togglePixel (r c : Fin 8) (s : State) : Result := present (encode (.tgl r c)) s

/-- `LDP name`: the table's pattern through `DES` (R71). -/
def loadPattern (name : Text) (s : State) : Result :=
  match Config.patternTable.lookup name with
  | some X => setMatrix X s
  | none => .refused .noSuchPattern

/-- The two files of an export: payload bytes 0..7 and 8..15 (R33, R71, R163). DESIGN CHOICE, log entry 23: whether the two
files carry one timestamp is in no source; both carry the time of the action. -/
def exportFiles (k : AppMode) (time : Nat) (payload : List Byte) : List ExportFile :=
  [⟨⟨k, .columns, time⟩, payload.take Config.exportFileLen⟩,
   ⟨⟨k, .rows, time⟩, payload.drop Config.exportFileLen⟩]

/-- What the medium does with the planes `ENC` has returned (R175; log entry 13). -/
def writeFiles (time : Nat) (a : FileWrite) (s : State) : Result :=
  match a with
  | .accepted => .next (s.addFiles (exportFiles s.mode time (lastPayload s)))
  | .failed => reportHost .fileAccessFailure s

/-- Preview and export actions are disabled while the gate reports a rejection (R132): no command is issued. -/
def unlessRejected (f : State → Result) (s : State) : Result :=
  match s.rejection with
  | none => f s
  | some _ => .next s

/-- The gate before a preview or an export: disabled while it reports a rejection, else it runs again, redundantly and
defensively, on the current text (R132; log entry 25). -/
def gated (f : State → Result) (s : State) : Result := unlessRejected (runGate s.text f) s

/-- `EXP`: `ENC`, then the two files, none to `M` (R71, R162). In text mode the `TXT` of R118 is the text edit's (log entry
30). -/
def exportPlanes (time : Nat) (a : FileWrite) (s : State) : Result :=
  gated (fun s => andThen (present (encode .enc) s) (writeFiles time a)) s

/-- `render` of what `ENC` and `SER` returned (R160). -/
def showPreview (planes rows : List Byte) (s : State) : Result :=
  .next (s.addShown (.preview (render (planes.take 8) (planes.drop 8) (decodeMatrix rows))))

/-- Preview: `ENC`, `SER`, `render`, none to `M` (R160, R162), in one step (DESIGN CHOICE, log entry 20). -/
def preview (s : State) : Result :=
  gated (fun s => andThen (present (encode .enc) s) fun t =>
    andThen (present (encode .ser) t) fun u => showPreview (lastPayload t) (lastPayload u) u) s

/-- Save a pattern: `SER`, and keep the 8 bytes with a name and a time (R166). -/
def savePattern (name : Text) (time : Nat) (s : State) : Result :=
  andThen (present (encode .ser) s) fun t => .next (t.withSaved (t.saved ++ [⟨name, time, lastPayload t⟩]))

/-- Load a saved pattern: `DES` with its bytes (R166). -/
def loadSaved (k : Nat) (s : State) : Result :=
  match s.saved[k]? with
  | some p => present (0x11#8 :: p.rows) s
  | none => .refused .noSuchPattern

/-- Tab switch: the other mode, and `CLR` (R93, R162, R164); the text goes with the matrix (DEDUCED, log entry 30). -/
def tabSwitch (s : State) : Result := present (encode .clr) ((s.withMode s.mode.other).withText [])

/-- One host action or event, from the state it finds (R42, R43). -/
def perform (x : Input) (s : State) : Result :=
  match x with
  | .command w => present w s
  | .reset => resetEvent s
  | .powerLoss => losePower s
  | .overlap _ _ => .refused .overlappingCommands
  | .textEdit t => textEdit t s
  | .rasterize t => rasterizeText t s
  | .importFile a => importFile a s
  | .togglePixel r c => inMode .draw (togglePixel r c) s
  | .loadPattern name => inMode .draw (loadPattern name) s
  | .setMatrix X => setMatrix X s
  | .exportPlanes time a => exportPlanes time a s
  | .preview => preview s
  | .savePattern name time => savePattern name time s
  | .loadSaved k => inMode .draw (loadSaved k) s
  | .tabSwitch => tabSwitch s

/-- The next host action is taken and performed; with none pending nothing happens (R190: the block does nothing until the
host issues a command; log entry 2). -/
def stepBody (s : State) : Result :=
  match s.inputs with
  | [] => .next s
  | x :: rest => perform x (s.withInputs rest)

/-- A command string put first among the host's actions, before a block that runs (log entry 1). -/
def placeCommand (w : List Byte) (s : State) : State := (s.withInputs (.command w :: s.inputs)).withPower .running

end Sys2Proof.Machine
end

