-- ==== Sys2Proof/Safety.lean ====
section
/-! DEFINITION. The terms in which claims speak of a run: the state after an outcome, the state invariant, and what a
command may change. -/

namespace Sys2Proof.Machine

/-- The state an outcome answers, if it is a next state. -/
def stateAfter : Result → Option State
  | .next s => some s
  | .fault _ => none
  | .refused _ => none

/-- `t` is `s` after one more response `r`: only the matrix and the record may differ (R66, R176). -/
def AnsweredBy (r : Response) (s t : State) : Prop := t = (s.record r).withMatrix t.m

/-- `t` is `s` after one more response `r`, the matrix unchanged. -/
def OnlyAnsweredBy (r : Response) (s t : State) : Prop := t = s.record r

/-- The response `OK` with a payload of bytes. -/
def okBytes (b : List Byte) : Response := ⟨.ok, .bytes b, none⟩

/-- The response `OK` with a payload of bits, which `RAS` alone gives (R66). -/
def okBits (b : RawBits) : Response := ⟨.ok, .bits b, none⟩

/-- In text mode `M` is the matrix of the current text (R118, R164). -/
def textPicture (s : State) : Prop := s.mode = .text → s.m = textMatrix s.text

/-- The response of an error outcome: the payload is empty (R66), the value recorded is R171's. -/
def errorResponse (c : OutcomeCode) : Response := ⟨c, .bytes [], c.reason⟩

/-- The commands that write `M` (R12's table). -/
def writesMatrix : Instr → Bool
  | .clr => true
  | .tgl _ _ => true
  | .ser => false
  | .des _ => true
  | .enc => false
  | .rdc _ => false
  | .rdr _ => false
  | .dec _ => true
  | .ras _ => false
  | .dmx _ _ => true

/-- A response is as R66 and R171 say: on any code but `OK` the payload is empty, and it records its code's reason. -/
def Response.wf (r : Response) : Bool := (r.code == .ok || r.payload == .bytes []) && r.reason == r.code.reason

/-- A saved pattern holds the 8 bytes of `SER` (R166). -/
def Pattern.wf (p : Pattern) : Bool := p.rows.length == 8

/-- Byte `c` of a columns file is idle or enables driver `c` alone (R51). -/
def columnsLegal (bytes : List Byte) : Bool :=
  (List.finRange 8).all fun c => bytes.getD c.val 0#8 == 0xFF#8 || bytes.getD c.val 0#8 == ~~~(1#8 <<< c.val)

/-- An export file is exactly 8 bytes (R33), and a columns file is a legal ColumnPlane (R51). -/
def ExportFile.wf (f : ExportFile) : Bool :=
  f.bytes.length == 8 && (f.name.label == .rows || columnsLegal f.bytes)

/-- The invariant of what the host keeps: patterns can be loaded, files are planes, errors carry no payload, the current
text is a ValidatedText (R130 "Invariant enforced at every mutation attempt"). The
block's own invariant (R11) is in the type of `m`. -/
def State.wf (s : State) : Bool :=
  s.responses.all Response.wf && s.saved.all Pattern.wf && s.files.all ExportFile.wf && (validate s.text).isNone

end Sys2Proof.Machine
end

