-- ==== Sys2Proof/Certificates/Slice0/Obligations.lean ====
section
/-! DEFINITION. The statements for the provers. Each docstring names the rule of spec/ it formalises, or says on which
sections, decisions or log entries it rests. "Response `okBytes l`" is the response `OK` with payload `l`. -/

open Sys2Proof Sys2Proof.Machine

/-! ## Reset -/

/-- R21: what every piece of state with a stated reset value holds after reset. That the host's pending actions and the
record are empty lists is the model's choice (log entries 1 and 3): R21's "none pending" is the block's. -/
def Obligations.ResetLeavesTheStatedValues : Prop :=
  (∀ r c : Fin 8, State.reset.m.cell r c = false) ∧
  (∀ k : Fin 64, State.reset.bits.get k = false) ∧
  (∀ (p : PlaneId) (c : Fin 8), planeRead p c State.reset.m = 0xFF#8) ∧
  State.reset.inputs = [] ∧ State.reset.responses = [] ∧
  State.reset.rejection = none ∧ State.reset.saved = []

/-- The reset event between two commands, from any state (R190 and R21; that the event also empties the host's lines of
R21's table and keeps the mode and the records is log entry 6, that the text goes with the matrix log entry 30). -/
def Obligations.ResetEventRestoresTheResetValues : Prop :=
  ∀ (s : State) (rest : List Input), s.inputs = .reset :: rest →
    ∃ t, step s = .next t ∧ t.m = State.reset.m ∧
      t = { s with m := t.m, power := .running, inputs := rest, rejection := none, text := [], saved := [] }

/-! ## The ten commands: completion, result and frame -/

/-- R93: `CLR`. -/
def Obligations.ClrUnlightsEveryCell : Prop :=
  ∀ s : State, decodeCommand [0x01#8] = .cmd .clr ∧
    ∃ t, exec .clr s = .next t ∧ AnsweredBy (okBytes []) s t ∧
      (∀ r c : Fin 8, t.m.cell r c = false) ∧ t.m = State.reset.m ∧
      (∀ k : Fin 64, t.bits.get k = false) ∧
      ∀ (p : PlaneId) (c : Fin 8), planeRead p c t.m = 0xFF#8

/-- R94: `TGL`, with the plane bytes of the other columns untouched, its corner cases, and its operand error. -/
def Obligations.TglComplementsOneCell : Prop :=
  ∀ (r c : Fin 8) (s : State),
    decodeCommand [0x02#8, BitVec.ofNat 8 (r.val * 8 + c.val)] = .cmd (.tgl r c) ∧
    (∃ t, exec (.tgl r c) s = .next t ∧ AnsweredBy (okBytes []) s t ∧
      t.m.cell r c = !s.m.cell r c ∧
      (∀ r' c' : Fin 8, ¬(r' = r ∧ c' = c) → t.m.cell r' c' = s.m.cell r' c') ∧
      (∀ (p : PlaneId) (c' : Fin 8), c' ≠ c → planeRead p c' t.m = planeRead p c' s.m) ∧
      ((∀ r' : Fin 8, t.m.cell r' c = false) → planeRead .columns c t.m = 0xFF#8) ∧
      ((∀ r' : Fin 8, s.m.cell r' c = false) → planeRead .columns c t.m = ~~~(1#8 <<< c.val)) ∧
      ∃ u, exec (.tgl r c) t = .next u ∧ u.m = s.m) ∧
    ∀ b : Byte, (b.getLsbD 7 = true ∨ b.getLsbD 6 = true) → s.power = .running →
      present [0x02#8, b] s = .next (s.record (errorResponse .errOperand))

/-- R95: `SER`. -/
def Obligations.SerReturnsTheRowBytes : Prop :=
  ∀ s : State, decodeCommand [0x10#8] = .cmd .ser ∧
    ∃ l : List Byte, l.length = 8 ∧
      (∀ j c : Fin 8, (l.getD j.val 0#8).getLsbD (7 - c.val) = s.m.cell j c) ∧
      ∃ t, exec .ser s = .next t ∧ OnlyAnsweredBy (okBytes l) s t ∧ exec .ser t = .next (t.record (okBytes l))

/-- R96: `DES`; any other operand length is ERR_LENGTH. -/
def Obligations.DesLoadsTheImmediate : Prop :=
  (∀ (imm : Vector Byte 8) (s : State), decodeCommand (0x11#8 :: imm.toList) = .cmd (.des imm) ∧
    ∃ t, exec (.des imm) s = .next t ∧ AnsweredBy (okBytes []) s t ∧
      ∀ j c : Fin 8, t.m.cell j c = (imm.get j).getLsbD (7 - c.val)) ∧
  ∀ args : List Byte, args.length ≠ 8 → decodeCommand (0x11#8 :: args) = .err .length

/-- R115: `ENC`, the column plane in payload bytes 0 to 7 and the row plane in 8 to 15, in R110's terms. -/
def Obligations.EncReturnsBothPlanes : Prop :=
  ∀ s : State, decodeCommand [0x20#8] = .cmd .enc ∧
    ∃ l : List Byte, l.length = 16 ∧
      (∀ c : Fin 8, ((∃ r, s.m.cell r c = true) → l.getD c.val 0#8 = ~~~(1#8 <<< c.val)) ∧
        ((∀ r, s.m.cell r c = false) → l.getD c.val 0#8 = 0xFF#8) ∧
        ∀ r : Fin 8, (l.getD (8 + c.val) 0#8).getLsbD r.val = !s.m.cell r c) ∧
      ∃ t, exec .enc s = .next t ∧ OnlyAnsweredBy (okBytes l) s t ∧ exec .enc t = .next (t.record (okBytes l))

/-- R116: `RDC c`, with its operand error. -/
def Obligations.RdcReturnsTheColumnByte : Prop :=
  ∀ (c : Fin 8) (s : State), decodeCommand [0x21#8, BitVec.ofNat 8 c.val] = .cmd (.rdc c) ∧
    (∃ (b : Byte) (t : State), exec (.rdc c) s = .next t ∧ OnlyAnsweredBy (okBytes [b]) s t ∧
      ((∃ r, s.m.cell r c = true) → b = ~~~(1#8 <<< c.val)) ∧
      ((∀ r, s.m.cell r c = false) → b = 0xFF#8)) ∧
    ∀ b : Byte, 8 ≤ b.toNat → s.power = .running →
      present [0x21#8, b] s = .next (s.record (errorResponse .errOperand))

/-- R117: `RDR c`, with its operand error. -/
def Obligations.RdrReturnsTheRowByte : Prop :=
  ∀ (c : Fin 8) (s : State), decodeCommand [0x22#8, BitVec.ofNat 8 c.val] = .cmd (.rdr c) ∧
    (∃ (b : Byte) (t : State), exec (.rdr c) s = .next t ∧ OnlyAnsweredBy (okBytes [b]) s t ∧
      ∀ r : Fin 8, b.getLsbD r.val = !s.m.cell r c) ∧
    ∀ b : Byte, 8 ≤ b.toNat → s.power = .running →
      present [0x22#8, b] s = .next (s.record (errorResponse .errOperand))

/-- R143: `DEC`; a payload whose length is not the one announced is ERR_LENGTH and leaves `M`. -/
def Obligations.DecLoadsTheBuffer : Prop :=
  (∀ (raw : List Byte) (s : State), ∃ t, exec (.dec raw) s = .next t ∧ AnsweredBy (okBytes []) s t ∧
    ∀ r c : Fin 8, t.m.cell r c =
      if r.val < raw.length then (raw.getD r.val 0#8).getLsbD (7 - c.val) else false) ∧
  (∀ raw : List Byte, raw.length ≤ 255 →
    decodeCommand (0x30#8 :: BitVec.ofNat 8 raw.length :: raw) = .cmd (.dec raw)) ∧
  (∀ (n : Byte) (raw : List Byte) (s : State), raw.length ≠ n.toNat → s.power = .running →
    present (0x30#8 :: n :: raw) s = .next (s.record (errorResponse .errLength))) ∧
  ∀ s : State, s.power = .running → present [0x30#8] s = .next (s.record (errorResponse .errLength))

/-- R85: `RAS`; the response read as bytes is the code and the bytes again (R66). -/
def Obligations.RasReturnsEveryBit : Prop :=
  (∀ (raw : List Byte) (s : State), ∃ l : RawBits, l.length = 8 * raw.length ∧
    (∀ (j : Nat) (i : Fin 8), j < raw.length →
      l.getD (8 * j + i.val) false = (raw.getD j 0#8).getLsbD (7 - i.val)) ∧
    (∃ t, exec (.ras raw) s = .next t ∧ OnlyAnsweredBy (okBits l) s t) ∧
    (okBits l).toBytes = 0x00#8 :: raw) ∧
  ∀ raw : List Byte, raw.length ≤ 255 →
    decodeCommand (0x31#8 :: BitVec.ofNat 8 raw.length :: raw) = .cmd (.ras raw)

/-- R148: `DMX`, in R147's terms; an encoder-made pair gives the encoded matrix back; any other operand length is
ERR_LENGTH. -/
def Obligations.DmxLoadsTheDisplayedPicture : Prop :=
  (∀ (cp rp : Plane) (s : State), decodeCommand (0x32#8 :: (cp.toList ++ rp.toList)) = .cmd (.dmx cp rp) ∧
    ∃ t, exec (.dmx cp rp) s = .next t ∧ AnsweredBy (okBytes []) s t ∧
      ∀ r k : Fin 8, t.m.cell r k = true ↔
        ∃ pos : Fin 8, (cp.get pos).getLsbD k.val = false ∧ (rp.get pos).getLsbD r.val = false) ∧
  (∀ (X : PixelMatrix) (s : State), ∃ t,
    exec (.dmx (encodePlanes X).1 (encodePlanes X).2) s = .next t ∧ t.m = X) ∧
  ∀ args : List Byte, args.length ≠ 16 → decodeCommand (0x32#8 :: args) = .err .length

/-- R41 and R12's list of readers, as a frame: `SER`, `ENC`, `RDC`, `RDR`, `RAS` change nothing but the record, every
plane byte and bit reads as before, and repeating the command gives the same response. -/
def Obligations.ReadersChangeNothingAndRepeat : Prop :=
  ∀ (i : Instr) (s t : State), writesMatrix i = false → exec i s = .next t →
    ∃ r : Response, OnlyAnsweredBy r s t ∧ t.m = s.m ∧ (∀ k : Fin 64, t.bits.get k = s.bits.get k) ∧
      (∀ (p : PlaneId) (c : Fin 8), planeRead p c t.m = planeRead p c s.m) ∧
      exec i t = .next (t.record r)

/-! ## Encodings and the decoder -/

/-- R70's eleven examples, each word written out, decode to the commands they stand for. -/
def Obligations.AssemblerExamplesDecode : Prop :=
  decodeCommand [0x01#8] = .cmd .clr ∧
  decodeCommand [0x02#8, 0x15#8] = .cmd (.tgl 2 5) ∧
  decodeCommand [0x10#8] = .cmd .ser ∧
  decodeCommand [0x11#8, 0x18#8, 0x18#8, 0x18#8, 0xFF#8, 0xFF#8, 0x18#8, 0x18#8, 0x18#8] =
    .cmd (.des #v[0x18#8, 0x18#8, 0x18#8, 0xFF#8, 0xFF#8, 0x18#8, 0x18#8, 0x18#8]) ∧
  decodeCommand [0x20#8] = .cmd .enc ∧
  decodeCommand [0x21#8, 0x03#8] = .cmd (.rdc 3) ∧
  decodeCommand [0x22#8, 0x07#8] = .cmd (.rdr 7) ∧
  decodeCommand [0x30#8, 0x01#8, 0x41#8] = .cmd (.dec [0x41#8]) ∧
  decodeCommand [0x30#8, 0x00#8] = .cmd (.dec []) ∧
  decodeCommand [0x31#8, 0x02#8, 0x48#8, 0x49#8] = .cmd (.ras [0x48#8, 0x49#8]) ∧
  decodeCommand [0x32#8, 0xFE#8, 0xFF#8, 0xFF#8, 0xFF#8, 0xFF#8, 0xFF#8, 0xFF#8, 0xFF#8,
      0xFE#8, 0xFF#8, 0xFF#8, 0xFF#8, 0xFF#8, 0xFF#8, 0xFF#8, 0xFF#8] =
    .cmd (.dmx #v[0xFE#8, 0xFF#8, 0xFF#8, 0xFF#8, 0xFF#8, 0xFF#8, 0xFF#8, 0xFF#8]
      #v[0xFE#8, 0xFF#8, 0xFF#8, 0xFF#8, 0xFF#8, 0xFF#8, 0xFF#8, 0xFF#8])

/-- R68: the whole decoder, check by check in its order. -/
def Obligations.DecoderChecksInOrder : Prop :=
  decodeCommand [] = .err .length ∧
  ∀ (op : Byte) (a : List Byte),
    (op ∉ [0x01#8, 0x02#8, 0x10#8, 0x11#8, 0x20#8, 0x21#8, 0x22#8, 0x30#8, 0x31#8, 0x32#8] →
      decodeCommand (op :: a) = .err .opcode) ∧
    (op ∈ [0x01#8, 0x10#8, 0x20#8] → a.length ≠ 0 → decodeCommand (op :: a) = .err .length) ∧
    (op ∈ [0x02#8, 0x21#8, 0x22#8] → a.length ≠ 1 → decodeCommand (op :: a) = .err .length) ∧
    (op = 0x11#8 → a.length ≠ 8 → decodeCommand (op :: a) = .err .length) ∧
    (op = 0x32#8 → a.length ≠ 16 → decodeCommand (op :: a) = .err .length) ∧
    (op ∈ [0x30#8, 0x31#8] → a = [] → decodeCommand (op :: a) = .err .length) ∧
    (op ∈ [0x30#8, 0x31#8] → ∀ n raw, a = n :: raw → raw.length ≠ n.toNat →
      decodeCommand (op :: a) = .err .length) ∧
    (op = 0x02#8 → ∀ b, a = [b] →
      ((b.getLsbD 7 = true ∨ b.getLsbD 6 = true) → decodeCommand (op :: a) = .err .operand) ∧
      ∀ r c : Fin 8, b.toNat = 8 * r.val + c.val → decodeCommand (op :: a) = .cmd (.tgl r c)) ∧
    (op ∈ [0x21#8, 0x22#8] → ∀ b, a = [b] →
      (8 ≤ b.toNat → decodeCommand (op :: a) = .err .operand) ∧
      ∀ c : Fin 8, b.toNat = c.val →
        decodeCommand (op :: a) = .cmd (if op = 0x21#8 then .rdc c else .rdr c)) ∧
    (a = [] → (op = 0x01#8 → decodeCommand (op :: a) = .cmd .clr) ∧
      (op = 0x10#8 → decodeCommand (op :: a) = .cmd .ser) ∧
      (op = 0x20#8 → decodeCommand (op :: a) = .cmd .enc)) ∧
    (op = 0x11#8 → ∀ imm : Vector Byte 8, a = imm.toList → decodeCommand (op :: a) = .cmd (.des imm)) ∧
    (op = 0x32#8 → ∀ cp rp : Plane, a = cp.toList ++ rp.toList → decodeCommand (op :: a) = .cmd (.dmx cp rp)) ∧
    (op = 0x30#8 → ∀ n raw, a = n :: raw → raw.length = n.toNat → decodeCommand (op :: a) = .cmd (.dec raw)) ∧
    (op = 0x31#8 → ∀ n raw, a = n :: raw → raw.length = n.toNat → decodeCommand (op :: a) = .cmd (.ras raw))

/-- Decode and encode agree: every well-formed command, with every operand, is read back whole (R60 to R65). -/
def Obligations.DecodeOfEncodeIsTheCommand : Prop :=
  ∀ i : Instr, i.wellFormed = true → decodeCommand (encode i) = .cmd i

/-- The other direction: a string that decodes is the encoding of the well-formed command it decodes to, so every command
has one word and no bit of a word is ignored (R68, R69). -/
def Obligations.DecodedStringIsTheEncoding : Prop :=
  ∀ (w : List Byte) (i : Instr), decodeCommand w = .cmd i → i.wellFormed = true ∧ encode i = w

/-! ## Steps, outcomes, runs -/

/-- A step runs the decoded command: it takes the command off the host's pending actions, and is `exec` of it there. -/
def Obligations.StepRunsTheDecodedCommand : Prop :=
  ∀ (s : State) (rest : List Input) (w : List Byte) (i : Instr),
    s.inputs = .command w :: rest → s.power = .running → decodeCommand w = .cmd i → i.wellFormed = true →
    step s = exec i { s with inputs := rest }

/-- R176: a command that ends in an error answers its code with an empty payload; nothing else changes, no plane byte
either. -/
def Obligations.ErrorOutcomeChangesNothing : Prop :=
  ∀ (s : State) (rest : List Input) (w : List Byte) (e : DecodeError),
    s.inputs = .command w :: rest → s.power = .running → decodeCommand w = .err e →
    ∃ t, step s = .next t ∧
      t = { s with inputs := rest, responses := s.responses ++ [errorResponse (errorCode e)] } ∧
      t.m = s.m ∧ ∀ (p : PlaneId) (c : Fin 8), planeRead p c t.m = planeRead p c s.m

/-- R66 and R172: every byte string gets exactly one response; it is `OK` exactly when the string is a command; on any
other code the payload is empty and `M` unchanged; the block never produces a host-side code (R67). -/
def Obligations.EveryCommandAnswersExactlyOnce : Prop :=
  ∀ (s : State) (rest : List Input) (w : List Byte), s.inputs = .command w :: rest → s.power = .running →
    ∃ (t : State) (r : Response), step s = .next t ∧
      t = { s with inputs := rest, m := t.m, responses := s.responses ++ [r] } ∧
      (r.code = .ok ↔ ∃ i, decodeCommand w = .cmd i) ∧
      (r.code ≠ .ok → r.payload = .bytes [] ∧ t.m = s.m) ∧
      r.code ∈ [OutcomeCode.ok, .errOpcode, .errOperand, .errLength]

/-- The codes of R67's table, and R171's column of the values recorded. -/
def Obligations.OutcomeCodesAreTheTable : Prop :=
  OutcomeCode.toByte .ok = 0x00#8 ∧ (errorCode .opcode).toByte = 0x01#8 ∧ (errorCode .operand).toByte = 0x02#8 ∧
  (errorCode .length).toByte = 0x03#8 ∧ (rejectionCode .invalidCharset).toByte = 0x10#8 ∧
  (rejectionCode .tooLong).toByte = 0x11#8 ∧ OutcomeCode.toByte .decodeError = 0x20#8 ∧
  OutcomeCode.toByte .fileAccessFailure = 0x30#8 ∧
  (errorResponse (rejectionCode .invalidCharset)).reason = some "invalid character set.".toList ∧
  (errorResponse (rejectionCode .tooLong)).reason = some "too long.".toList ∧
  (errorResponse .decodeError).reason = some "invalid byte sequence for target encoding".toList ∧
  (errorResponse .fileAccessFailure).reason = none ∧ ∀ e : DecodeError, (errorResponse (errorCode e)).reason = none

/-- R204: the response and the new matrix are functions of the old matrix and the command's bytes, and of nothing else. -/
def Obligations.ResponseDependsOnMatrixAndBytesOnly : Prop :=
  ∀ (w : List Byte) (s s' : State), s.power = .running → s'.power = .running → s.m = s'.m →
    ∃ (r : Response) (X : PixelMatrix), present w s = .next ((s.record r).withMatrix X) ∧
      present w s' = .next ((s'.record r).withMatrix X)

/-- R204 over runs: every list of commands is performed to its end, one response each, and from equal matrices the
responses and the final matrix are equal, whatever the host's state. -/
def Obligations.RunsFromEqualMatricesAgree : Prop :=
  ∀ (ws : List (List Byte)) (s s' : State), s.power = .running → s'.power = .running → s.m = s'.m →
    s.inputs = ws.map .command → s'.inputs = ws.map .command →
    ∃ (rs : List Response) (X : PixelMatrix), rs.length = ws.length ∧
      core.run ws.length s = .next { s with inputs := [], m := X, responses := s.responses ++ rs } ∧
      core.run ws.length s' = .next { s' with inputs := [], m := X, responses := s'.responses ++ rs }

/-- R177: the command after a failed one is treated as if the failed one had never been sent; only the error's own
response tells the two runs apart. -/
def Obligations.FailedCommandLeavesNoTrace : Prop :=
  ∀ (s : State) (bad w : List Byte) (e : DecodeError) (rest : List Input),
    s.power = .running → s.inputs = .command bad :: .command w :: rest → decodeCommand bad = .err e →
    ∃ (t : State) (r : Response), core.run 2 s = .next t ∧
      step { s with inputs := .command w :: rest } =
        .next { t with responses := s.responses ++ [r] } ∧
      t.responses = s.responses ++ [errorResponse (errorCode e), r]

/-- R12: what can write `M`. A step that changes the matrix performed one of the events of R12's table, as a raw command or
as the command of a host action, or the loss of power of log entry 8. -/
def Obligations.OnlyListedEventsWriteTheMatrix : Prop :=
  ∀ s t : State, step s = .next t → t.m ≠ s.m →
    ∃ (x : Input) (rest : List Input), s.inputs = x :: rest ∧
      ((∃ w i, x = .command w ∧ decodeCommand w = .cmd i ∧ writesMatrix i = true) ∨ x = .reset ∨ x = .powerLoss ∨
        (∃ u, x = .textEdit u ∧ validate u = none ∧ s.mode = .text) ∨
        (∃ raw, x = .importFile (.delivered raw) ∧ s.mode = .draw) ∨
        (∃ r c, x = .togglePixel r c ∧ s.mode = .draw) ∨ (∃ name, x = .loadPattern name ∧ s.mode = .draw) ∨
        (∃ k, x = .loadSaved k ∧ s.mode = .draw) ∨ (∃ X, x = .setMatrix X) ∨ x = .tabSwitch)

/-- R184's list of what a model refuses, and the model's own line of log entry 11: a step is refused in no other case;
and two commands at the same time are always refused (R45). -/
def Obligations.StepRefusesOnlyTheListedSituations : Prop :=
  (∀ (s : State) (rest : List Input) (w₁ w₂ : List Byte), s.inputs = .overlap w₁ w₂ :: rest →
    step s = .refused .overlappingCommands) ∧
  ∀ (s : State) (q : Refusal), step s = .refused q →
    ∃ (x : Input) (rest : List Input), s.inputs = x :: rest ∧
      ((q = .overlappingCommands ∧ ∃ w₁ w₂, x = .overlap w₁ w₂) ∨
        (q = .unvalidatedText ∧ ∃ u, x = .rasterize u ∧ validate u ≠ none) ∨
        (q = .notReset ∧ s.power = .unreset) ∨
        (q = .noSuchPattern ∧ s.mode = .draw ∧
          ((∃ name, x = .loadPattern name ∧ Config.patternTable.lookup name = none) ∨
            ∃ k, x = .loadSaved k ∧ s.saved[k]? = none)))

/-- R191 and R183: in every state of a block without reset a command is refused, and a step that answers leaves that
phase only by the reset event; a loss of power begins it, and after the reset event the matrix is all unlit, whatever the
array held (the phase and the free value are the model's, log entry 8, and the statement holds for any content). -/
def Obligations.PowerLossRefusesUntilReset : Prop :=
  (∀ s : State, s.power = .unreset →
    (∀ w rest, s.inputs = .command w :: rest → step s = .refused .notReset) ∧
    (∀ t, (∀ rest, s.inputs ≠ .reset :: rest) → step s = .next t → t.power = .unreset) ∧
    ∀ rest, s.inputs = .reset :: rest → ∃ t, step s = .next t ∧ t.power = .running ∧ t.m = State.reset.m) ∧
  (∀ (s : State) (rest : List Input), s.inputs = .powerLoss :: rest →
    ∃ t, step s = .next t ∧ t = { s with inputs := rest, m := t.m, power := .unreset, freeIndex := s.freeIndex + 1 }) ∧
  ∀ (s : State) (w : List Byte) (rest : List Input),
    (s.inputs = .powerLoss :: .command w :: rest →
      ∃ t, step s = .next t ∧ step t = .refused .notReset) ∧
    (s.inputs = .powerLoss :: .reset :: rest →
      ∃ t u, step s = .next t ∧ step t = .next u ∧ u.m = State.reset.m ∧ u.power = .running ∧ u.inputs = rest ∧
        u.freeIndex = s.freeIndex + 1)

/-! ## The function rules -/

/-- R80: `bytesToBits`. -/
def Obligations.BytesToBitsIsMsbFirst : Prop :=
  ∀ bytes : List Byte, (bytesToBits bytes).length = 8 * bytes.length ∧
    ∀ (j : Nat) (i : Fin 8), j < bytes.length →
      (bytesToBits bytes).getD (8 * j + i.val) false = (bytes.getD j 0#8).getLsbD (7 - i.val)

/-- R81: `fit64`, and that `fromBits` does this fitting itself. -/
def Obligations.FitPadsOrCutsToSixtyFour : Prop :=
  ∀ S : RawBits, (∀ k : Fin 64, (fit64 S).get k = if h : k.val < S.length then S[k.val] else false) ∧
    fromBits S = fromBits (fit64 S).toList

/-- R90 and R91: `toBits` and `fromBits`, row-major. -/
def Obligations.CodecIsRowMajor : Prop :=
  (∀ (X : PixelMatrix) (r c : Fin 8) (k : Fin 64), k.val = r.val * 8 + c.val → (toBits X).get k = X.cell r c) ∧
  ∀ (S : RawBits) (r c : Fin 8), (fromBits S).cell r c =
    if h : r.val * 8 + c.val < S.length then S[r.val * 8 + c.val] else false

/-- The laws (a) to (d) of 41_matrix_codec.md section 1: the codec's round trips. -/
def Obligations.CodecRoundTrips : Prop :=
  (∀ X : PixelMatrix, fromBits (toBits X).toList = X) ∧
  (∀ S : RawBits, toBits (fromBits S) = fit64 S) ∧
  (∀ S : RawBits, S.length = 64 → (toBits (fromBits S)).toList = S) ∧
  (∀ S : RawBits, fromBits S = fromBits (S.take 64)) ∧
  fromBits [] = State.blank ∧ (toBits State.blank).toList = List.replicate 64 false ∧
  (toBits (PixelMatrix.ofCells fun _ _ => true)).toList = List.replicate 64 true

/-- R110: `encode`, step by step, for every column (the weight of a row bit is decision D9). -/
def Obligations.EncodeFollowsItsThreeSteps : Prop :=
  ∀ (X : PixelMatrix) (c : Fin 8),
    (active X c = true ↔ ∃ r, X.cell r c = true) ∧
    (encodePlanes X).1.get c = (if active X c then BitVec.ofNat 8 (255 - 2 ^ c.val) else 0xFF#8) ∧
    ((encodePlanes X).2.get c).toNat = ∑ r : Fin 8, (if X.cell r c then 0 else 2 ^ r.val)

/-- The plane invariants of 42_eprom_encoder.md section 1 (DOC0 §8 items 3 and 4) and their consequences, with the lane structure: column `c` alone determines `CP[c]` and `RP[c]`. -/
def Obligations.PlaneInvariants : Prop :=
  (∀ (X : PixelMatrix) (c : Fin 8),
    ((encodePlanes X).1.get c = 0xFF#8 ↔ ∀ r, X.cell r c = false) ∧
    ((encodePlanes X).1.get c ≠ 0xFF#8 → ∀ k : Fin 8, ((encodePlanes X).1.get c).getLsbD k.val = false ↔ k = c) ∧
    (∀ r : Fin 8, ((encodePlanes X).2.get c).getLsbD r.val = false ↔ X.cell r c = true) ∧
    (active X c = true ↔ (encodePlanes X).2.get c ≠ 0xFF#8)) ∧
  (∀ X Y : PixelMatrix, (encodePlanes X).2 = (encodePlanes Y).2 → X = Y) ∧
  ∀ (X Y : PixelMatrix) (c : Fin 8), (∀ r, X.cell r c = Y.cell r c) →
    ∀ p : PlaneId, planeRead p c X = planeRead p c Y

/-- The set of plane pairs `encode` produces (30_encoding.md Part A): exactly those in which each column byte is the one
its row byte calls for. -/
def Obligations.EncoderImageIsTheConsistentPairs : Prop :=
  ∀ cp rp : Plane, (∃ X, encodePlanes X = (cp, rp)) ↔
    ∀ c : Fin 8, cp.get c = if rp.get c = 0xFF#8 then 0xFF#8 else ~~~(1#8 <<< c.val)

/-- R140: `decodeMatrix`, cell by cell. -/
def Obligations.DecodeMatrixReadsRowBytes : Prop :=
  ∀ raw : List Byte, decodeMatrix raw = fromBits ((bytesToBits (raw.take 64)).take 64) ∧
    ∀ r c : Fin 8, (decodeMatrix raw).cell r c =
      if h : r.val < raw.length then (raw[r.val]).getLsbD (7 - c.val) else false

/-- 44_eprom_decoder.md section 1: bytes from index 8 on cannot change the decoded matrix. -/
def Obligations.OnlyEightBytesMatter : Prop :=
  ∀ raw raw' : List Byte, raw.take 8 = raw'.take 8 → decodeMatrix raw = decodeMatrix raw'

/-- R147: `display` is the identity on encoded pairs and agrees there with `rowsToMatrix`, but not on every pair; an idle
column byte blanks its scan position whatever the row byte says. -/
def Obligations.DisplayInvertsEncode : Prop :=
  (∀ (cp rp : Plane) (r k : Fin 8), (display cp rp).cell r k = true ↔
    ∃ pos : Fin 8, (cp.get pos).getLsbD k.val = false ∧ (rp.get pos).getLsbD r.val = false) ∧
  (∀ X : PixelMatrix, display (encodePlanes X).1 (encodePlanes X).2 = X ∧
    display (encodePlanes X).1 (encodePlanes X).2 = rowsToMatrix (encodePlanes X).2) ∧
  (∀ (cp rp rp' : Plane) (pos : Fin 8), cp.get pos = 0xFF#8 →
    (∀ k : Fin 8, k ≠ pos → rp'.get k = rp.get k) → display cp rp' = display cp rp) ∧
  display (Vector.replicate 8 0xFF#8) (Vector.replicate 8 0x00#8) ≠ rowsToMatrix (Vector.replicate 8 0x00#8)

/-- The laws of 44_eprom_decoder.md section 2: rows, import image, and DOC0 §8 item 9 under the spec's mapping. -/
def Obligations.ImportImageLaws : Prop :=
  ∀ X : PixelMatrix, rowsToMatrix (encodePlanes X).2 = X ∧ decodeMatrix (image64 X) = X ∧
    (image64 X).length = 64 ∧ decodeMatrix (image64 (rowsToMatrix (encodePlanes X).2)) = X ∧
    ∀ tail : List Byte, decodeMatrix (pack64 (toBits X) ++ tail) = X

/-- 70_reset_and_hazards.md section 3 and 45_preview_and_host.md section 2: what `DEC` makes of the rows file. -/
def Obligations.RowsFileIsNoImportFile : Prop :=
  ∀ (X : PixelMatrix) (k j : Fin 8),
    (decodeMatrix (encodePlanes X).2.toList).cell k j = !X.cell (Fin.ofNat 8 (7 - j.val)) k

/-! ## Relations between the commands -/

/-- 44_eprom_decoder.md section 2: `ENC`, `CLR`, then `DMX` of the payload's two halves restores the matrix, from every
state: the engine inverts its transform losslessly. -/
def Obligations.ExportClearRestore : Prop :=
  ∀ s : State, ∃ (t u v : State) (cp rp : Plane),
    exec .enc s = .next t ∧ t.responses = s.responses ++ [okBytes (cp.toList ++ rp.toList)] ∧
    exec .clr t = .next u ∧ exec (.dmx cp rp) u = .next v ∧ v.m = s.m

/-- 41_matrix_codec.md section 2 and 44_eprom_decoder.md section 2: the payload of `SER` loads the same matrix into any
block, by `DES` or by `DEC`, whatever bytes follow. -/
def Obligations.SerialisedRowsCopyTheMatrix : Prop :=
  ∀ s other : State, ∃ (t : State) (rows : Vector Byte 8), exec .ser s = .next t ∧
    t.responses = s.responses ++ [okBytes rows.toList] ∧
    (∃ u, exec (.des rows) other = .next u ∧ u.m = s.m) ∧
    ∀ tail : List Byte, ∃ u, exec (.dec (rows.toList ++ tail)) other = .next u ∧ u.m = s.m

/-- 70_reset_and_hazards.md section 1: `CLR`, an empty `DEC`, a zero `DES` and an idle `DMX` leave the reset matrix. -/
def Obligations.CommandsEquivalentToReset : Prop :=
  ∀ (i : Instr) (s : State), i ∈ [Instr.clr, .dec [], .des (Vector.replicate 8 0#8),
      .dmx (Vector.replicate 8 0xFF#8) (Vector.replicate 8 0xFF#8)] →
    ∃ t, exec i s = .next t ∧ t.m = State.reset.m

/-! ## The host -/

/-- R131: the gate's three verdicts in their order, their codes and reasons, and that every text edit leaves
the verdict as the rejection state, so that acceptance clears it. -/
def Obligations.GateVerdicts : Prop :=
  (rejectionCode .invalidCharset).toByte = 0x10#8 ∧ (rejectionCode .tooLong).toByte = 0x11#8 ∧
  Rejection.invalidCharset.reason = "invalid character set.".toList ∧ Rejection.tooLong.reason = "too long.".toList ∧
  (∀ (s : State) (rest : List Input) (t : Text), s.inputs = .textEdit t :: rest → s.power = .running →
    ∃ u, step s = .next u ∧ u.rejection = validate t) ∧
  ∀ t : Text,
    (validate t = some .invalidCharset ↔ ∃ c ∈ upper t, ¬(('A' ≤ c ∧ c ≤ 'Z') ∨ ('0' ≤ c ∧ c ≤ '9') ∨ c = ' ')) ∧
    (validate t = some .tooLong ↔
      (∀ c ∈ upper t, ('A' ≤ c ∧ c ≤ 'Z') ∨ ('0' ≤ c ∧ c ≤ '9') ∨ c = ' ') ∧ 20 < t.length) ∧
    (validate t = none ↔
      (∀ c ∈ upper t, ('A' ≤ c ∧ c ≤ 'Z') ∨ ('0' ≤ c ∧ c ≤ '9') ∨ c = ' ') ∧ t.length ≤ 20)

/-- R82: `upper` touches `a` to `z` alone and is idempotent. -/
def Obligations.UpperIsAsciiOnly : Prop :=
  (∀ t : Text, upper (upper t) = upper t ∧ (upper t).length = t.length) ∧
  ∀ c : Char, (('a' ≤ c ∧ c ≤ 'z') → (upperChar c).toNat + 32 = c.toNat) ∧ (¬('a' ≤ c ∧ c ≤ 'z') → upperChar c = c)

/-- R133 and R132: a rejected text, in either mode, issues no command, keeps `M`, is not stored, sets the rejection state and
is reported once, with its reason. -/
def Obligations.RejectedTextLeavesTheMatrix : Prop :=
  ∀ (s : State) (rest : List Input) (u : Text) (r : Rejection), s.inputs = .textEdit u :: rest →
    validate u = some r →
    step s = .next { s with inputs := rest, rejection := some r,
                            responses := s.responses ++ [errorResponse (rejectionCode r)] }

/-- R84, with R131's third verdict: in text mode an accepted text clears the rejection and loads its matrix: row `j` is
the byte of character `j`, most significant bit in column 0; rows past the text are unlit. The byte values are R55's table
(log entry 17). -/
def Obligations.AcceptedTextLoadsItsMatrix : Prop :=
  (charByte ' ' = 0x20#8 ∧ charByte '0' = 0x30#8 ∧ charByte 'A' = 0x41#8 ∧ charByte 'a' = 0x61#8 ∧
    ∀ c : Char, (c = ' ' ∨ ('0' ≤ c ∧ c ≤ '9') ∨ ('A' ≤ c ∧ c ≤ 'Z') ∨ ('a' ≤ c ∧ c ≤ 'z')) →
      (charByte c).toNat = c.toNat ∧ (charByte c).getLsbD 7 = false) ∧
  ∀ (s : State) (rest : List Input) (u : Text), s.inputs = .textEdit u :: rest → s.mode = .text → validate u = none →
    s.power = .running →
    ∃ t, step s = .next t ∧
      t = { s with inputs := rest, rejection := none, text := u, m := t.m, responses := s.responses ++ [okBytes []] } ∧
      t.m = textMatrix u ∧
      ∀ r c : Fin 8, t.m.cell r c =
        if h : r.val < u.length then (charByte (upperChar u[r.val])).getLsbD (7 - c.val) else false

/-- 42_eprom_encoder.md section 2 and 70_reset_and_hazards.md section 3: column 0 of a text is unlit, its planes idle
there, and characters past the eighth never reach the matrix. -/
def Obligations.TextColumnZeroIsIdleAndTailIsCut : Prop :=
  ∀ u : Text, validate u = none →
    (∀ r : Fin 8, (textMatrix u).cell r 0 = false) ∧ (∀ p : PlaneId, planeRead p 0 (textMatrix u) = 0xFF#8) ∧
    textMatrix u = textMatrix (u.take 8)

/-- R83 and R86: `rasterize` of a validated text is the bits of its upper-cased characters' bytes, most significant first,
for all its characters, and goes through `RAS`; on any other text the host-level function is refused. The byte values are
R55's table (log entry 17). -/
def Obligations.RasterizeNeedsValidation : Prop :=
  ∀ (s : State) (rest : List Input) (u : Text), s.inputs = .rasterize u :: rest → s.power = .running →
    (∀ r, validate u = some r → rasterize u = none ∧ step s = .refused .unvalidatedText) ∧
    (validate u = none → ∃ l : RawBits, rasterize u = some l ∧ l.length = 8 * u.length ∧
      (∀ (j : Nat) (i : Fin 8) (h : j < u.length),
        l.getD (8 * j + i.val) false = (upperChar u[j]).toNat.testBit (7 - i.val)) ∧
      step s = .next { s with inputs := rest, responses := s.responses ++ [okBits l] })

/-- R150: text-mode import issues no command; `M` and every plane byte are unchanged whether it succeeds or fails (for
every TEXT_DECODER; which import path is taken is R164). That no gate runs on the
string, so that the rejection and the current text stay, is the model's choice, log entry 29. -/
def Obligations.TextImportLeavesTheMatrix : Prop :=
  ∀ (s : State) (rest : List Input) (raw : List Byte), s.inputs = .importFile (.delivered raw) :: rest →
    s.mode = .text →
    ∃ t, step s = .next t ∧ t.m = s.m ∧ (∀ (p : PlaneId) (c : Fin 8), planeRead p c t.m = planeRead p c s.m) ∧
      t = match Config.textDecoder raw with
        | some str => { s with inputs := rest, shown := s.shown ++ [.importedText str] }
        | none => { s with inputs := rest, responses := s.responses ++ [errorResponse .decodeError] }

/-- R71's `IMP` and R143: matrix-mode import of a file of any length loads `decodeMatrix` of the file. -/
def Obligations.MatrixImportLoadsTheFile : Prop :=
  ∀ (s : State) (rest : List Input) (raw : List Byte), s.inputs = .importFile (.delivered raw) :: rest →
    s.mode = .draw → s.power = .running →
    step s = .next { s with inputs := rest, m := decodeMatrix raw, responses := s.responses ++ [okBytes []] }

/-- R175: on a file-access failure at import the host issues no command and `M` keeps its value; at export the planes
have been returned and nothing in the block is affected. That a failed export leaves the list of accepted files as it was, one
answer holding for both files, is the model's choice, log entry 13; so is the current text, log entry 25. -/
def Obligations.FileFailureLeavesTheMatrix : Prop :=
  ∀ (s : State) (rest : List Input) (time : Nat),
    (s.inputs = .importFile .failed :: rest →
      step s = .next { s with inputs := rest, responses := s.responses ++ [errorResponse .fileAccessFailure] }) ∧
    (s.inputs = .exportPlanes time .failed :: rest → s.power = .running → s.rejection = none → validate s.text = none →
      step s = .next { s with inputs := rest, responses := s.responses ++
        [okBytes ((encodePlanes s.m).1.toList ++ (encodePlanes s.m).2.toList), errorResponse .fileAccessFailure] })

/-- R33 with R71's `EXP` and R163: the two files hold the two planes, 8 bytes each, under their labels, and a written name
contains the mode prefix, the fixed label and the timestamp, for every FILE_NAMING (log entries 13, 23 and 27). `M` is
unchanged (R162). In text mode an accepted text edit and then an export write the planes of the text (R118). -/
def Obligations.ExportWritesThePlanes : Prop :=
  (∀ f : FileName,
    (match f.pre with | .text => "text" | .draw => "drawing").toList <:+: writtenName f ∧
    (match f.label with | .columns => "eprom1-columns" | .rows => "eprom2-rows").toList <:+: writtenName f ∧
    Config.fileStamp f.stamp <:+: writtenName f) ∧
  (∀ (s : State) (rest : List Input) (u : Text) (time : Nat), s.inputs = .textEdit u :: .exportPlanes time .accepted :: rest →
    s.mode = .text → s.power = .running → validate u = none →
    ∃ t, core.run 2 s = .next t ∧
      t.files = s.files ++ [⟨⟨.text, .columns, time⟩, (encodePlanes (textMatrix u)).1.toList⟩,
        ⟨⟨.text, .rows, time⟩, (encodePlanes (textMatrix u)).2.toList⟩]) ∧
  ∀ (s : State) (rest : List Input) (time : Nat), s.inputs = .exportPlanes time .accepted :: rest →
    s.power = .running → s.rejection = none → validate s.text = none →
    ∃ t, step s = .next t ∧ t.m = s.m ∧
      t.files = s.files ++ [⟨⟨s.mode, .columns, time⟩, (List.finRange 8).map fun c => planeRead .columns c s.m⟩,
        ⟨⟨s.mode, .rows, time⟩, (List.finRange 8).map fun c => planeRead .rows c s.m⟩] ∧
      t = { s with inputs := rest, files := t.files, responses := s.responses ++
        [okBytes ((encodePlanes s.m).1.toList ++ (encodePlanes s.m).2.toList)] }

/-- R132: while the gate reports a rejection, preview and export are disabled: no command is issued and nothing happens
(log entry 14). Otherwise the gate runs again on the current text; should it reject, it does as on an edit, and no command
is issued (log entry 25; no such state keeps the invariant). -/
def Obligations.RejectionDisablesPreviewAndExport : Prop :=
  ∀ (s : State) (rest : List Input) (x : Input) (r : Rejection), s.inputs = x :: rest →
    (x = .preview ∨ ∃ time a, x = .exportPlanes time a) →
    (s.rejection = some r → step s = .next { s with inputs := rest }) ∧
    (s.rejection = none → validate s.text = some r →
      step s = .next { s with inputs := rest, rejection := some r,
                              responses := s.responses ++ [errorResponse (rejectionCode r)] })

/-- R160 and R162: a preview is `ENC`, `SER` and `render` of what they return; `M` is unchanged. For every
PREVIEW_FORMAT the string contains each column's two bytes in binary and in hexadecimal, the art, in which every cell has a
character at a place of its own in one order for every matrix, lit and unlit differing, and the fixed footer, and the
numerals spell the bytes (log entry 26). That nothing lands between `ENC` and `SER`
is the model's choice, log entry 20. -/
def Obligations.PreviewRendersTheCurrentPicture : Prop :=
  (∀ (cp rp : List Byte) (X : PixelMatrix), artText X <:+: render cp rp X ∧ footerText <:+: render cp rp X ∧
    ∀ (c : Fin 8) (b : Byte), (b = cp.getD c.val 0#8 ∨ b = rp.getD c.val 0#8) →
      binaryText b <:+: render cp rp X ∧ hexText b <:+: render cp rp X) ∧
  (∃ order : Equiv.Perm (Fin 64), ∀ X : PixelMatrix,
    ((List.finRange 64).map fun i => pixelChar (X.cell (bitRow (order i)) (bitCol (order i)))).Sublist (artText X)) ∧
  pixelChar true ≠ pixelChar false ∧ footerText ≠ [] ∧
  (∀ b : Byte,
    (binaryText b ≠ [] ∧ (∀ ch ∈ binaryText b, ch = '0' ∨ ch = '1') ∧
      (binaryText b).foldl (fun n ch => 2 * n + (ch.toNat - 0x30)) 0 = b.toNat) ∧
    (hexText b ≠ [] ∧ (∀ ch ∈ hexText b, ('0' ≤ ch ∧ ch ≤ '9') ∨ ('A' ≤ ch ∧ ch ≤ 'F') ∨ ('a' ≤ ch ∧ ch ≤ 'f')) ∧
      (hexText b).foldl (fun n ch => 16 * n + (if ch ≤ '9' then ch.toNat - 0x30 else
        if ch ≤ 'F' then ch.toNat - 0x37 else ch.toNat - 0x57)) 0 = b.toNat)) ∧
  ∀ (s : State) (rest : List Input), s.inputs = .preview :: rest → s.power = .running → s.rejection = none →
    validate s.text = none →
    ∃ t, step s = .next t ∧ t.m = s.m ∧
      t.shown = s.shown ++
        [.preview (render (encodePlanes s.m).1.toList (encodePlanes s.m).2.toList s.m)] ∧
      t = { s with inputs := rest, shown := t.shown, responses := s.responses ++
        [okBytes ((encodePlanes s.m).1.toList ++ (encodePlanes s.m).2.toList), okBytes (pack64 (toBits s.m))] }

/-- R166: a saved pattern, loaded again in any later state in draw mode (R164; log entry 19), restores the picture that
was saved; `SETM` of a picture (R71) does the same. -/
def Obligations.SavedPatternRestoresThePicture : Prop :=
  ∀ (s u : State) (rest rest' : List Input) (name : Text) (time : Nat),
    s.inputs = .savePattern name time :: rest → s.power = .running →
    ∃ t, step s = .next t ∧ t.m = s.m ∧ t.saved.length = s.saved.length + 1 ∧ t.saved.take s.saved.length = s.saved ∧
      (u.saved = t.saved → u.power = .running → u.mode = .draw → u.inputs = .loadSaved s.saved.length :: rest' →
        step u = .next { u with inputs := rest', m := s.m, responses := u.responses ++ [okBytes []] }) ∧
      (u.power = .running → u.inputs = .setMatrix s.m :: rest' →
        step u = .next { u with inputs := rest', m := s.m, responses := u.responses ++ [okBytes []] })

/-- R71's `LDP`, in draw mode (R164): a pattern of the table is loaded whole, for every PATTERN_TABLE; a name that is not
in it is refused (log entry 11). -/
def Obligations.PatternLoadReplacesTheMatrix : Prop :=
  ∀ (s : State) (rest : List Input) (name : Text), s.inputs = .loadPattern name :: rest → s.mode = .draw →
    s.power = .running →
    match Config.patternTable.lookup name with
    | some X => step s = .next { s with inputs := rest, m := X, responses := s.responses ++ [okBytes []] }
    | none => step s = .refused .noSuchPattern

/-- R164: on a tab switch the mode changes and the matrix is discarded. That the gate's rejection stays is the model's
reading, log entry 14, that the text goes with the matrix log entry 30. -/
def Obligations.TabSwitchDiscardsTheMatrix : Prop :=
  ∀ (s : State) (rest : List Input), s.inputs = .tabSwitch :: rest → s.power = .running →
    ∃ t, step s = .next t ∧ t.mode ≠ s.mode ∧ t.m = State.reset.m ∧
      t = { s with inputs := rest, mode := t.mode, m := t.m, text := [], responses := s.responses ++ [okBytes []] }

/-! ## The invariant -/

/-- The invariant holds at reset. -/
def Obligations.ResetIsWellFormed : Prop := State.reset.wf = true

/-- Every step keeps the invariant, from every state that has it: the current text is a ValidatedText (R130), errors carry no payload (R66) and record their reason (R171), saved patterns are the 8
bytes of `SER` (R166), export files are exactly 8 bytes (R33) and every columns file is a legal ColumnPlane (R51). -/
def Obligations.StepKeepsTheInvariant : Prop :=
  ∀ s t : State, s.wf = true → step s = .next t → t.wf = true

/-! ## The mode -/

/-- R164 (a): the mode decides where the matrix comes from. In draw mode a toggle goes through (and so do pattern loads, by
the statements above), and an accepted text edit is stored without a command; in text mode a toggle and the pattern loads do
nothing. What becomes of an action of the other mode is the model's choice, log entry 19. So in text mode `M` stays the picture
of the current text (R118; log entry 30) over every step but a loss of power, a `SETM`, and a raw command that writes `M`. -/
def Obligations.ModeDecidesTheSource : Prop :=
  ∀ (s : State) (x : Input) (rest : List Input), s.inputs = x :: rest →
    (s.mode = .draw →
      (∀ r c, x = .togglePixel r c → s.power = .running →
        step s = .next { s with inputs := rest, m := toggleCell s.m r c, responses := s.responses ++ [okBytes []] }) ∧
      (∀ u, x = .textEdit u → validate u = none →
        step s = .next { s with inputs := rest, rejection := none, text := u })) ∧
    (s.mode = .text → ((∃ r c, x = .togglePixel r c) ∨ (∃ name, x = .loadPattern name) ∨ ∃ k, x = .loadSaved k) →
      step s = .next { s with inputs := rest }) ∧
    ∀ t, textPicture s → step s = .next t → x ≠ .powerLoss → (∀ X, x ≠ .setMatrix X) →
      (∀ w i, x = .command w → decodeCommand w = .cmd i → writesMatrix i = false) → textPicture t
end

