-- ==== Sys2Proof/Laws/Matrix.lean ====
section
/-! SUPPORT. The pixel matrix through its cells. -/

namespace Sys2Proof

@[simp] theorem PixelMatrix.cell_ofCells (f : Fin 8 → Fin 8 → Bool) (r c : Fin 8) :
    (PixelMatrix.ofCells f).cell r c = f r c := by
  simp [PixelMatrix.cell, PixelMatrix.ofCells, Vector.get_eq_getElem]

/-- Two matrices with the same cells are one matrix. -/
theorem PixelMatrix.eq_of_cells {X Y : PixelMatrix} (h : ∀ r c, X.cell r c = Y.cell r c) : X = Y := by
  obtain ⟨x⟩ := X
  obtain ⟨y⟩ := Y
  congr 1
  apply Vector.ext
  intro r hr
  apply Vector.ext
  intro c hc
  simpa [PixelMatrix.cell, Vector.get_eq_getElem] using h ⟨r, hr⟩ ⟨c, hc⟩

@[simp] theorem PixelMatrix.ofCells_cell (X : PixelMatrix) : PixelMatrix.ofCells X.cell = X :=
  PixelMatrix.eq_of_cells fun r c => PixelMatrix.cell_ofCells X.cell r c

end Sys2Proof
end

