-- ==== Sys2Proof/Laws/Operands.lean ====
section
/-! SUPPORT. What the bits of an or of weights, of a serialised byte and of a packed row are. -/

namespace Sys2Proof.Machine

/-- The eight bits of an `orBits` under the positional weight of a RowPlane byte. -/
theorem getLsbD_orBits_row (f : Fin 8 → Bool) (r : Fin 8) : (orBits rowBitIndex f).getLsbD r.val = f r := by
  have key : ∀ a b c d e g h k : Bool, ∀ r : Fin 8,
      (orBits rowBitIndex fun i => [a, b, c, d, e, g, h, k].getD i.val false).getLsbD r.val =
        [a, b, c, d, e, g, h, k].getD r.val false := by decide
  have hf : f = fun i => [f 0, f 1, f 2, f 3, f 4, f 5, f 6, f 7].getD i.val false := by
    funext i; fin_cases i <;> rfl
  rw [hf]
  exact key _ _ _ _ _ _ _ _ r

/-- The eight bits of an `orBits` under the most-significant-first weight. -/
theorem getLsbD_orBits_msb (f : Fin 8 → Bool) (i : Fin 8) : (orBits msbIndex f).getLsbD (7 - i.val) = f i := by
  have key : ∀ a b c d e g h k : Bool, ∀ i : Fin 8,
      (orBits msbIndex fun i => [a, b, c, d, e, g, h, k].getD i.val false).getLsbD (7 - i.val) =
        [a, b, c, d, e, g, h, k].getD i.val false := by decide
  have hf : f = fun i => [f 0, f 1, f 2, f 3, f 4, f 5, f 6, f 7].getD i.val false := by
    funext i; fin_cases i <;> rfl
  rw [hf]
  exact key _ _ _ _ _ _ _ _ i

@[simp] theorem length_byteBits (v : Byte) : (byteBits v).length = 8 := by simp [byteBits]

@[simp] theorem bytesToBits_nil : bytesToBits [] = [] := rfl

@[simp] theorem bytesToBits_cons (v : Byte) (l : List Byte) : bytesToBits (v :: l) = byteBits v ++ bytesToBits l :=
  List.flatMap_cons

/-- The `i`-th serialised bit of a byte is its bit `7-i`. -/
theorem getD_byteBits (v : Byte) (i : Fin 8) : (byteBits v).getD i.val false = v.getLsbD (7 - i.val) := by
  simp [byteBits, msbIndex]

/-- Bit `7-c` of a packed row is entry `8j+c`. -/
theorem getLsbD_packRow (B : BitSequence) (j c : Fin 8) :
    (packRow B j).getLsbD (7 - c.val) = B.get ⟨8 * j.val + c.val, by omega⟩ :=
  getLsbD_orBits_msb _ c

@[simp] theorem length_pack64 (B : BitSequence) : (pack64 B).length = 8 := by simp [pack64]

/-- Byte `j` of `pack64` is the packed row `j`. -/
theorem getD_pack64 (B : BitSequence) (j : Fin 8) : (pack64 B).getD j.val 0#8 = packRow B j := by
  simp [pack64]

/-- Entry `k` of `fit64`. -/
@[simp] theorem get_fit64 (S : RawBits) (k : Fin 64) : (fit64 S).get k = S.getD k.val false := by
  simp [fit64, Vector.get_eq_getElem]

end Sys2Proof.Machine
end

