-- ==== Sys2Proof/Laws/State.lean ====
section
/-! SUPPORT. One lemma per field per named update of the state. -/

namespace Sys2Proof.Machine.State

variable (s : State)

@[simp] theorem withMatrix_m (X : PixelMatrix) : (s.withMatrix X).m = X := rfl
@[simp] theorem withMatrix_power (X : PixelMatrix) : (s.withMatrix X).power = s.power := rfl
@[simp] theorem withMatrix_freeIndex (X : PixelMatrix) : (s.withMatrix X).freeIndex = s.freeIndex := rfl
@[simp] theorem withMatrix_inputs (X : PixelMatrix) : (s.withMatrix X).inputs = s.inputs := rfl
@[simp] theorem withMatrix_responses (X : PixelMatrix) : (s.withMatrix X).responses = s.responses := rfl
@[simp] theorem withMatrix_rejection (X : PixelMatrix) : (s.withMatrix X).rejection = s.rejection := rfl
@[simp] theorem withMatrix_text (X : PixelMatrix) : (s.withMatrix X).text = s.text := rfl
@[simp] theorem withMatrix_saved (X : PixelMatrix) : (s.withMatrix X).saved = s.saved := rfl
@[simp] theorem withMatrix_mode (X : PixelMatrix) : (s.withMatrix X).mode = s.mode := rfl
@[simp] theorem withMatrix_files (X : PixelMatrix) : (s.withMatrix X).files = s.files := rfl
@[simp] theorem withMatrix_shown (X : PixelMatrix) : (s.withMatrix X).shown = s.shown := rfl

@[simp] theorem record_m (r : Response) : (s.record r).m = s.m := rfl
@[simp] theorem record_power (r : Response) : (s.record r).power = s.power := rfl
@[simp] theorem record_freeIndex (r : Response) : (s.record r).freeIndex = s.freeIndex := rfl
@[simp] theorem record_inputs (r : Response) : (s.record r).inputs = s.inputs := rfl
@[simp] theorem record_responses (r : Response) : (s.record r).responses = s.responses ++ [r] := rfl
@[simp] theorem record_rejection (r : Response) : (s.record r).rejection = s.rejection := rfl
@[simp] theorem record_text (r : Response) : (s.record r).text = s.text := rfl
@[simp] theorem record_saved (r : Response) : (s.record r).saved = s.saved := rfl
@[simp] theorem record_mode (r : Response) : (s.record r).mode = s.mode := rfl
@[simp] theorem record_files (r : Response) : (s.record r).files = s.files := rfl
@[simp] theorem record_shown (r : Response) : (s.record r).shown = s.shown := rfl

@[simp] theorem withInputs_m (l : List Input) : (s.withInputs l).m = s.m := rfl
@[simp] theorem withInputs_power (l : List Input) : (s.withInputs l).power = s.power := rfl
@[simp] theorem withInputs_freeIndex (l : List Input) : (s.withInputs l).freeIndex = s.freeIndex := rfl
@[simp] theorem withInputs_inputs (l : List Input) : (s.withInputs l).inputs = l := rfl
@[simp] theorem withInputs_responses (l : List Input) : (s.withInputs l).responses = s.responses := rfl
@[simp] theorem withInputs_rejection (l : List Input) : (s.withInputs l).rejection = s.rejection := rfl
@[simp] theorem withInputs_text (l : List Input) : (s.withInputs l).text = s.text := rfl
@[simp] theorem withInputs_saved (l : List Input) : (s.withInputs l).saved = s.saved := rfl
@[simp] theorem withInputs_mode (l : List Input) : (s.withInputs l).mode = s.mode := rfl
@[simp] theorem withInputs_files (l : List Input) : (s.withInputs l).files = s.files := rfl
@[simp] theorem withInputs_shown (l : List Input) : (s.withInputs l).shown = s.shown := rfl

@[simp] theorem withRejection_m (r : Option Rejection) : (s.withRejection r).m = s.m := rfl
@[simp] theorem withRejection_power (r : Option Rejection) : (s.withRejection r).power = s.power := rfl
@[simp] theorem withRejection_freeIndex (r : Option Rejection) : (s.withRejection r).freeIndex = s.freeIndex := rfl
@[simp] theorem withRejection_inputs (r : Option Rejection) : (s.withRejection r).inputs = s.inputs := rfl
@[simp] theorem withRejection_responses (r : Option Rejection) : (s.withRejection r).responses = s.responses := rfl
@[simp] theorem withRejection_rejection (r : Option Rejection) : (s.withRejection r).rejection = r := rfl
@[simp] theorem withRejection_text (r : Option Rejection) : (s.withRejection r).text = s.text := rfl
@[simp] theorem withRejection_saved (r : Option Rejection) : (s.withRejection r).saved = s.saved := rfl
@[simp] theorem withRejection_mode (r : Option Rejection) : (s.withRejection r).mode = s.mode := rfl
@[simp] theorem withRejection_files (r : Option Rejection) : (s.withRejection r).files = s.files := rfl
@[simp] theorem withRejection_shown (r : Option Rejection) : (s.withRejection r).shown = s.shown := rfl

@[simp] theorem withSaved_m (l : List Pattern) : (s.withSaved l).m = s.m := rfl
@[simp] theorem withSaved_power (l : List Pattern) : (s.withSaved l).power = s.power := rfl
@[simp] theorem withSaved_freeIndex (l : List Pattern) : (s.withSaved l).freeIndex = s.freeIndex := rfl
@[simp] theorem withSaved_inputs (l : List Pattern) : (s.withSaved l).inputs = s.inputs := rfl
@[simp] theorem withSaved_responses (l : List Pattern) : (s.withSaved l).responses = s.responses := rfl
@[simp] theorem withSaved_rejection (l : List Pattern) : (s.withSaved l).rejection = s.rejection := rfl
@[simp] theorem withSaved_text (l : List Pattern) : (s.withSaved l).text = s.text := rfl
@[simp] theorem withSaved_saved (l : List Pattern) : (s.withSaved l).saved = l := rfl
@[simp] theorem withSaved_mode (l : List Pattern) : (s.withSaved l).mode = s.mode := rfl
@[simp] theorem withSaved_files (l : List Pattern) : (s.withSaved l).files = s.files := rfl
@[simp] theorem withSaved_shown (l : List Pattern) : (s.withSaved l).shown = s.shown := rfl

@[simp] theorem withMode_m (k : AppMode) : (s.withMode k).m = s.m := rfl
@[simp] theorem withMode_power (k : AppMode) : (s.withMode k).power = s.power := rfl
@[simp] theorem withMode_freeIndex (k : AppMode) : (s.withMode k).freeIndex = s.freeIndex := rfl
@[simp] theorem withMode_inputs (k : AppMode) : (s.withMode k).inputs = s.inputs := rfl
@[simp] theorem withMode_responses (k : AppMode) : (s.withMode k).responses = s.responses := rfl
@[simp] theorem withMode_rejection (k : AppMode) : (s.withMode k).rejection = s.rejection := rfl
@[simp] theorem withMode_text (k : AppMode) : (s.withMode k).text = s.text := rfl
@[simp] theorem withMode_saved (k : AppMode) : (s.withMode k).saved = s.saved := rfl
@[simp] theorem withMode_mode (k : AppMode) : (s.withMode k).mode = k := rfl
@[simp] theorem withMode_files (k : AppMode) : (s.withMode k).files = s.files := rfl
@[simp] theorem withMode_shown (k : AppMode) : (s.withMode k).shown = s.shown := rfl

@[simp] theorem addFiles_m (l : List ExportFile) : (s.addFiles l).m = s.m := rfl
@[simp] theorem addFiles_power (l : List ExportFile) : (s.addFiles l).power = s.power := rfl
@[simp] theorem addFiles_freeIndex (l : List ExportFile) : (s.addFiles l).freeIndex = s.freeIndex := rfl
@[simp] theorem addFiles_inputs (l : List ExportFile) : (s.addFiles l).inputs = s.inputs := rfl
@[simp] theorem addFiles_responses (l : List ExportFile) : (s.addFiles l).responses = s.responses := rfl
@[simp] theorem addFiles_rejection (l : List ExportFile) : (s.addFiles l).rejection = s.rejection := rfl
@[simp] theorem addFiles_text (l : List ExportFile) : (s.addFiles l).text = s.text := rfl
@[simp] theorem addFiles_saved (l : List ExportFile) : (s.addFiles l).saved = s.saved := rfl
@[simp] theorem addFiles_mode (l : List ExportFile) : (s.addFiles l).mode = s.mode := rfl
@[simp] theorem addFiles_files (l : List ExportFile) : (s.addFiles l).files = s.files ++ l := rfl
@[simp] theorem addFiles_shown (l : List ExportFile) : (s.addFiles l).shown = s.shown := rfl

@[simp] theorem addShown_m (x : Shown) : (s.addShown x).m = s.m := rfl
@[simp] theorem addShown_power (x : Shown) : (s.addShown x).power = s.power := rfl
@[simp] theorem addShown_freeIndex (x : Shown) : (s.addShown x).freeIndex = s.freeIndex := rfl
@[simp] theorem addShown_inputs (x : Shown) : (s.addShown x).inputs = s.inputs := rfl
@[simp] theorem addShown_responses (x : Shown) : (s.addShown x).responses = s.responses := rfl
@[simp] theorem addShown_rejection (x : Shown) : (s.addShown x).rejection = s.rejection := rfl
@[simp] theorem addShown_text (x : Shown) : (s.addShown x).text = s.text := rfl
@[simp] theorem addShown_saved (x : Shown) : (s.addShown x).saved = s.saved := rfl
@[simp] theorem addShown_mode (x : Shown) : (s.addShown x).mode = s.mode := rfl
@[simp] theorem addShown_files (x : Shown) : (s.addShown x).files = s.files := rfl
@[simp] theorem addShown_shown (x : Shown) : (s.addShown x).shown = s.shown ++ [x] := rfl

@[simp] theorem withPower_m (p : Power) : (s.withPower p).m = s.m := rfl
@[simp] theorem withPower_power (p : Power) : (s.withPower p).power = p := rfl
@[simp] theorem withPower_freeIndex (p : Power) : (s.withPower p).freeIndex = s.freeIndex := rfl
@[simp] theorem withPower_inputs (p : Power) : (s.withPower p).inputs = s.inputs := rfl
@[simp] theorem withPower_responses (p : Power) : (s.withPower p).responses = s.responses := rfl
@[simp] theorem withPower_rejection (p : Power) : (s.withPower p).rejection = s.rejection := rfl
@[simp] theorem withPower_text (p : Power) : (s.withPower p).text = s.text := rfl
@[simp] theorem withPower_saved (p : Power) : (s.withPower p).saved = s.saved := rfl
@[simp] theorem withPower_mode (p : Power) : (s.withPower p).mode = s.mode := rfl
@[simp] theorem withPower_files (p : Power) : (s.withPower p).files = s.files := rfl
@[simp] theorem withPower_shown (p : Power) : (s.withPower p).shown = s.shown := rfl

@[simp] theorem nextFree_m : s.nextFree.m = s.m := rfl
@[simp] theorem nextFree_power : s.nextFree.power = s.power := rfl
@[simp] theorem nextFree_freeIndex : s.nextFree.freeIndex = s.freeIndex + 1 := rfl
@[simp] theorem nextFree_inputs : s.nextFree.inputs = s.inputs := rfl
@[simp] theorem nextFree_responses : s.nextFree.responses = s.responses := rfl
@[simp] theorem nextFree_rejection : s.nextFree.rejection = s.rejection := rfl
@[simp] theorem nextFree_text : s.nextFree.text = s.text := rfl
@[simp] theorem nextFree_saved : s.nextFree.saved = s.saved := rfl
@[simp] theorem nextFree_mode : s.nextFree.mode = s.mode := rfl
@[simp] theorem nextFree_files : s.nextFree.files = s.files := rfl
@[simp] theorem nextFree_shown : s.nextFree.shown = s.shown := rfl

@[simp] theorem withText_m (t : Text) : (s.withText t).m = s.m := rfl
@[simp] theorem withText_power (t : Text) : (s.withText t).power = s.power := rfl
@[simp] theorem withText_freeIndex (t : Text) : (s.withText t).freeIndex = s.freeIndex := rfl
@[simp] theorem withText_inputs (t : Text) : (s.withText t).inputs = s.inputs := rfl
@[simp] theorem withText_responses (t : Text) : (s.withText t).responses = s.responses := rfl
@[simp] theorem withText_rejection (t : Text) : (s.withText t).rejection = s.rejection := rfl
@[simp] theorem withText_text (t : Text) : (s.withText t).text = t := rfl
@[simp] theorem withText_saved (t : Text) : (s.withText t).saved = s.saved := rfl
@[simp] theorem withText_mode (t : Text) : (s.withText t).mode = s.mode := rfl
@[simp] theorem withText_files (t : Text) : (s.withText t).files = s.files := rfl
@[simp] theorem withText_shown (t : Text) : (s.withText t).shown = s.shown := rfl

/-- A state is determined by its fields. -/
theorem ext_fields {s t : State} (h0 : s.m = t.m) (h1 : s.power = t.power) (h2 : s.freeIndex = t.freeIndex) (h3 : s.inputs = t.inputs) (h4 : s.responses = t.responses) (h5 : s.rejection = t.rejection) (h6 : s.saved = t.saved) (h7 : s.mode = t.mode) (h8 : s.files = t.files) (h9 : s.shown = t.shown) (h10 : s.text = t.text) :
    s = t := by
  cases s; cases t; simp_all

end Sys2Proof.Machine.State
end

