-- ==== Sys2Proof/Laws/Ops.lean ====
section
/-! SUPPORT. The shared operations, each said once: through cells and entries for the matrix functions, as an equation
for responding and raising. -/

namespace Sys2Proof.Machine

@[simp] theorem cell_blank (r c : Fin 8) : State.blank.cell r c = false := PixelMatrix.cell_ofCells _ r c

/-- Entry `k` of `toBits`. -/
theorem get_toBits (X : PixelMatrix) (k : Fin 64) : (toBits X).get k = X.cell (bitRow k) (bitCol k) := by
  simp [toBits, Vector.get_eq_getElem]

/-- A cell of `fromBits`. -/
theorem cell_fromBits (S : RawBits) (r c : Fin 8) : (fromBits S).cell r c = S.getD (r.val * 8 + c.val) false :=
  PixelMatrix.cell_ofCells _ r c

/-- A cell after a toggle. -/
theorem cell_toggleCell (X : PixelMatrix) (r c r' c' : Fin 8) :
    (toggleCell X r c).cell r' c' = if r' = r ∧ c' = c then !X.cell r' c' else X.cell r' c' :=
  PixelMatrix.cell_ofCells _ r' c'

/-- A column is active when one of its cells is lit. -/
theorem active_iff (X : PixelMatrix) (c : Fin 8) : active X c = true ↔ ∃ r, X.cell r c = true := by
  simp [active]

/-- Bit `r` of a row byte. -/
theorem getLsbD_rowByte (X : PixelMatrix) (r c : Fin 8) : (rowByte X c).getLsbD r.val = !X.cell r c :=
  getLsbD_orBits_row _ r

@[simp] theorem get_columnPlane (X : PixelMatrix) (c : Fin 8) : (columnPlane X).get c = columnByte X c := by
  simp [columnPlane, Vector.get_eq_getElem]

@[simp] theorem get_rowPlane (X : PixelMatrix) (c : Fin 8) : (rowPlane X).get c = rowByte X c := by
  simp [rowPlane, Vector.get_eq_getElem]

@[simp] theorem planeRead_columns (X : PixelMatrix) (c : Fin 8) : planeRead .columns c X = columnByte X c :=
  get_columnPlane X c

@[simp] theorem planeRead_rows (X : PixelMatrix) (c : Fin 8) : planeRead .rows c X = rowByte X c :=
  get_rowPlane X c

/-- A cell of `rowsToMatrix`. -/
theorem cell_rowsToMatrix (rp : Plane) (r c : Fin 8) : (rowsToMatrix rp).cell r c = !(rp.get c).getLsbD r.val :=
  PixelMatrix.cell_ofCells _ r c

/-- A pixel is displayed when some scan position enables its column driver and its row. -/
theorem cell_display_iff (cp rp : Plane) (r k : Fin 8) : (display cp rp).cell r k = true ↔
    ∃ pos : Fin 8, (cp.get pos).getLsbD k.val = false ∧ (rp.get pos).getLsbD r.val = false := by
  simp [display, rowBitIndex]

/-- Responding changes the record alone and always answers. -/
theorem respond_eq (c : OutcomeCode) (p : Payload) (s : State) : respond c p s = .next (s.record ⟨c, p, c.reason⟩) := rfl

/-- Raising an error outcome changes the record alone and always answers. -/
theorem raise_eq (e : DecodeError) (s : State) :
    raise e s = .next (s.record ⟨errorCode e, .bytes [], (errorCode e).reason⟩) := rfl

/-- `OK` records no value. -/
@[simp] theorem reason_ok : OutcomeCode.ok.reason = none := rfl

/-- The block's own errors record no value (R171). -/
@[simp] theorem reason_errorCode (e : DecodeError) : (errorCode e).reason = none := by cases e <;> rfl

@[simp] theorem andThen_next (s : State) (f : State → Result) : andThen (.next s) f = f s := rfl

@[simp] theorem andThen_refused (q : Refusal) (f : State → Result) : andThen (.refused q) f = .refused q := rfl

/-- If a sequence is refused, its first part was, or it answered and the second part was refused from there. -/
theorem andThen_eq_refused {x : Result} {f : State → Result} {q : Refusal} (h : andThen x f = .refused q) :
    x = .refused q ∨ ∃ u, x = .next u ∧ f u = .refused q := by
  cases x with
  | next u => exact .inr ⟨u, rfl, h⟩
  | fault r => cases h
  | refused r => cases h; exact .inl rfl

/-- If a sequence answers, its first part did, and the second did from there. -/
theorem andThen_eq_next {x : Result} {f : State → Result} {t : State} (h : andThen x f = .next t) :
    ∃ u, x = .next u ∧ f u = .next t := by
  cases x with
  | next u => exact ⟨u, rfl, h⟩
  | fault r => cases h
  | refused q => cases h

end Sys2Proof.Machine
end

