-- ==== Sys2Proof/Laws/Host.lean ====
section
/-! SUPPORT. What presenting a command and taking a step can do, said once. -/

namespace Sys2Proof.Machine

/-- A running block performs the command a string decodes to. -/
theorem present_cmd {w : List Byte} {s : State} {i : Instr} (hp : s.power = .running) (hd : decodeCommand w = .cmd i) :
    present w s = exec i s := by
  simp [present, hp, hd]

/-- A running block raises the error a string decodes to. -/
theorem present_err {w : List Byte} {s : State} {e : DecodeError} (hp : s.power = .running)
    (hd : decodeCommand w = .err e) : present w s = .next (s.record ⟨errorCode e, .bytes [], (errorCode e).reason⟩) := by
  simp [present, hp, hd, raise_eq]

/-- A block that was not reset refuses every string. -/
theorem present_unreset {w : List Byte} {s : State} (hp : s.power = .unreset) :
    present w s = .refused .notReset := by
  simp [present, hp]

/-- If presenting a command answers, the block runs, and the string was a command performed or an error raised. -/
theorem present_cases {w : List Byte} {s t : State} (h : present w s = .next t) :
    s.power = .running ∧ ((∃ i, decodeCommand w = .cmd i ∧ exec i s = .next t) ∨
      ∃ e, decodeCommand w = .err e ∧ t = s.record ⟨errorCode e, .bytes [], (errorCode e).reason⟩) := by
  cases hp : s.power with
  | unreset => rw [present_unreset hp] at h; cases h
  | running =>
    refine ⟨rfl, ?_⟩
    cases hd : decodeCommand w with
    | cmd i => exact .inl ⟨i, rfl, by rw [← present_cmd hp hd]; exact h⟩
    | err e =>
      rw [present_err hp hd] at h
      cases h
      exact .inr ⟨e, rfl, rfl⟩

/-- A step with no pending action changes nothing. -/
theorem step_idle {s : State} (h : s.inputs = []) : step s = .next s := by
  simp [step, stepBody, h]

/-- A step with a pending action performs it. -/
theorem step_input {s : State} {x : Input} {rest : List Input} (h : s.inputs = x :: rest) :
    step s = perform x (s.withInputs rest) := by
  simp [step, stepBody, h]

/-- If a step answers, it was idle or it performed the first pending action. -/
theorem step_cases {s t : State} (h : step s = .next t) :
    (s.inputs = [] ∧ t = s) ∨ ∃ x rest, s.inputs = x :: rest ∧ perform x (s.withInputs rest) = .next t := by
  cases hi : s.inputs with
  | nil => rw [step_idle hi] at h; cases h; exact .inl ⟨rfl, rfl⟩
  | cons x rest => exact .inr ⟨x, rest, rfl, by rw [← step_input hi]; exact h⟩

/-- A disabled action changes nothing, an enabled one is performed. -/
theorem unlessRejected_none {f : State → Result} {s : State} (h : s.rejection = none) : unlessRejected f s = f s := by
  simp [unlessRejected, h]

theorem unlessRejected_some {f : State → Result} {s : State} {r : Rejection} (h : s.rejection = some r) :
    unlessRejected f s = .next s := by
  simp [unlessRejected, h]

/-- A run of the gate that rejects is reported, and nothing else happens. -/
theorem runGate_some {t : Text} {r : Rejection} (h : validate t = some r) (f : State → Result) (s : State) :
    runGate t f s = .next ((s.withRejection (some r)).record ⟨rejectionCode r, .bytes [], (rejectionCode r).reason⟩) := by
  simp [runGate, h, reportHost, respond_eq]

/-- A run of the gate that accepts clears the rejection and goes on. -/
theorem runGate_none {t : Text} (h : validate t = none) (f : State → Result) (s : State) :
    runGate t f s = f (s.withRejection none) := by
  simp [runGate, h]

/-- A gated action is performed as it stands where no rejection is held and the current text is valid. -/
theorem gated_eq {f : State → Result} {s : State} (hr : s.rejection = none) (hv : validate s.text = none) :
    gated f s = f s := by
  rw [gated, unlessRejected_none hr, runGate_none hv, show s.withRejection none = s from hr ▸ rfl]

/-- If a gated action answers, it was disabled, or the gate rejected again, or it was performed as it stood. -/
theorem gated_eq_next {f : State → Result} {s t : State} (h : gated f s = .next t) :
    (s.rejection ≠ none ∧ t = s) ∨
    (∃ r, validate s.text = some r ∧
      t = (s.withRejection (some r)).record ⟨rejectionCode r, .bytes [], (rejectionCode r).reason⟩) ∨
    f s = .next t := by
  cases hr : s.rejection with
  | some r =>
    rw [gated, unlessRejected_some hr] at h
    cases h
    exact .inl ⟨by simp, rfl⟩
  | none =>
    cases hv : validate s.text with
    | some r => rw [gated, unlessRejected_none hr, runGate_some hv] at h; cases h; exact .inr (.inl ⟨r, rfl, rfl⟩)
    | none => rw [gated_eq hr hv] at h; exact .inr (.inr h)

/-- If a gated action is refused, it was performed. -/
theorem gated_eq_refused {f : State → Result} {s : State} {q : Refusal} (h : gated f s = .refused q) :
    f s = .refused q := by
  cases hr : s.rejection with
  | some r => rw [gated, unlessRejected_some hr] at h; cases h
  | none =>
    cases hv : validate s.text with
    | some r => rw [gated, unlessRejected_none hr, runGate_some hv] at h; cases h
    | none => rwa [gated_eq hr hv] at h

/-- A mode-bound action is performed in its mode and changes nothing in the other. -/
theorem inMode_eq {k : AppMode} {f : State → Result} {s : State} (h : s.mode = k) : inMode k f s = f s := by
  simp [inMode, h]

theorem inMode_ne {k : AppMode} {f : State → Result} {s : State} (h : s.mode ≠ k) : inMode k f s = .next s := by
  simp [inMode, h]

/-- If a mode-bound action answers, it was performed in its mode, or the mode is the other and nothing changed. -/
theorem inMode_eq_next {k : AppMode} {f : State → Result} {s t : State} (h : inMode k f s = .next t) :
    (s.mode = k ∧ f s = .next t) ∨ (s.mode ≠ k ∧ t = s) := by
  by_cases hk : s.mode = k
  · rw [inMode_eq hk] at h; exact .inl ⟨hk, h⟩
  · rw [inMode_ne hk] at h; cases h; exact .inr ⟨hk, rfl⟩

/-- A mode-bound action is refused in its mode alone. -/
theorem inMode_eq_refused {k : AppMode} {f : State → Result} {s : State} {q : Refusal} (h : inMode k f s = .refused q) :
    s.mode = k ∧ f s = .refused q := by
  by_cases hk : s.mode = k
  · rw [inMode_eq hk] at h; exact ⟨hk, h⟩
  · rw [inMode_ne hk] at h; cases h

end Sys2Proof.Machine
end

