-- ==== Sys2Proof/Laws/PerInstr.lean ====
section
/-! SUPPORT. Per-instruction lemmas: a command's bytes start with its opcode byte and have the length its format gives
(30_encoding.md R60, R61). -/

namespace Sys2Proof

/-- The opcode of a command (R60). -/
def Laws.opcodeOf : Instr → Opcode
  | .clr => .clr
  | .tgl _ _ => .tgl
  | .ser => .ser
  | .des _ => .des
  | .enc => .enc
  | .rdc _ => .rdc
  | .rdr _ => .rdr
  | .dec _ => .dec
  | .ras _ => .ras
  | .dmx _ _ => .dmx

/-- A `DEC` is well-formed when its payload has at most 255 bytes (R65). -/
theorem Laws.wellFormed_dec (raw : List Byte) : (Instr.dec raw).wellFormed = decide (raw.length ≤ 255) := rfl

/-- A `RAS` is well-formed when its payload has at most 255 bytes (R65). -/
theorem Laws.wellFormed_ras (raw : List Byte) : (Instr.ras raw).wellFormed = decide (raw.length ≤ 255) := rfl

/-- A well-formed command's bytes: the opcode byte first, then as many as the format asks for. -/
def Laws.EncodedLength.Statement (i : Instr) : Prop :=
  i.wellFormed = true → ∃ args, encode i = (Laws.opcodeOf i).byte :: args ∧
    (Laws.opcodeOf i).format.argLength args = some args.length

namespace Laws.EncodedLength

theorem clr : Statement .clr := fun _ => ⟨_, rfl, rfl⟩

theorem tgl (r c : Fin 8) : Statement (.tgl r c) := fun _ => ⟨_, rfl, rfl⟩

theorem ser : Statement .ser := fun _ => ⟨_, rfl, rfl⟩

theorem des (imm : Vector Byte 8) : Statement (.des imm) := fun _ =>
  ⟨imm.toList, rfl, by simp [Laws.opcodeOf, Opcode.format, Format.argLength]⟩

theorem enc : Statement .enc := fun _ => ⟨_, rfl, rfl⟩

theorem rdc (c : Fin 8) : Statement (.rdc c) := fun _ => ⟨_, rfl, rfl⟩

theorem rdr (c : Fin 8) : Statement (.rdr c) := fun _ => ⟨_, rfl, rfl⟩

theorem dec (raw : List Byte) : Statement (.dec raw) := fun h => by
  have hl : raw.length ≤ 255 := of_decide_eq_true h
  refine ⟨_, rfl, ?_⟩
  simp [Laws.opcodeOf, Opcode.format, Format.argLength]
  omega

theorem ras (raw : List Byte) : Statement (.ras raw) := fun h => by
  have hl : raw.length ≤ 255 := of_decide_eq_true h
  refine ⟨_, rfl, ?_⟩
  simp [Laws.opcodeOf, Opcode.format, Format.argLength]
  omega

theorem dmx (cp rp : Plane) : Statement (.dmx cp rp) := fun _ =>
  ⟨cp.toList ++ rp.toList, rfl, by simp [Laws.opcodeOf, Opcode.format, Format.argLength]⟩

end Laws.EncodedLength
end Sys2Proof
end

