-- ==== Sys2Proof/Laws/Preview.lean ====
section
/-! SUPPORT. What the host's strings contain: every piece of a preview, every part of a file name, and what the digits of a
numeral say. -/

namespace Sys2Proof.Machine

/-- What is mapped from a member stands in the joined list. -/
theorem infix_flatMap {α β : Type} {f : α → List β} {l : List α} {a : α} (h : a ∈ l) : f a <:+: l.flatMap f := by
  obtain ⟨u, v, rfl⟩ := List.append_of_mem h
  exact ⟨u.flatMap f, v.flatMap f, by simp⟩

/-- An assembled text holds every piece. -/
theorem infix_assemble {n : Nat} (order : Equiv.Perm (Fin n)) (gap : Nat → Text) {pieces : List Text} {t : Text}
    (hn : pieces.length = n) (h : t ∈ pieces) : t <:+: assemble order gap pieces := by
  obtain ⟨k, hk, rfl⟩ := List.getElem_of_mem h
  have hi : order (order.symm ⟨k, hn ▸ hk⟩) = ⟨k, hn ▸ hk⟩ := order.apply_symm_apply _
  refine List.IsInfix.trans ?_ (List.prefix_append _ _).isInfix
  refine List.IsInfix.trans ?_ (infix_flatMap (List.mem_finRange (order.symm ⟨k, hn ▸ hk⟩)))
  rw [hi]
  simpa [hk] using (List.suffix_append (gap (order.symm ⟨k, hn ▸ hk⟩).val) pieces[k]).isInfix

/-- Pieces that the order puts one after another stand one after another in the assembled text. -/
theorem sublist_assemble {n : Nat} (order : Equiv.Perm (Fin n)) (gap : Nat → Text) (pieces : List Text) :
    ((List.finRange n).flatMap fun i => pieces.getD (order i).val []).Sublist (assemble order gap pieces) := by
  have h : ∀ l : List (Fin n), (l.flatMap fun i => pieces.getD (order i).val []).Sublist
      (l.flatMap fun i => gap i.val ++ pieces.getD (order i).val []) := by
    intro l
    induction l with
    | nil => exact .refl _
    | cons i l ih =>
      simp only [List.flatMap_cons]
      exact .append (List.sublist_append_right _ _) ih
  exact (h _).trans (List.sublist_append_left _ _)

@[simp] theorem length_planeTexts (p : List Byte) : (planeTexts p).length = 16 := by simp [planeTexts, List.finRange]

/-- Every piece of a preview stands in it. -/
theorem piece_infix_render {cp rp : List Byte} {X : PixelMatrix} {t : Text} (h : t ∈ previewPieces cp rp X) :
    t <:+: render cp rp X :=
  infix_assemble Config.previewOrder (fun i => Config.previewGap i cp rp X) (by simp [previewPieces]) h

/-- The pieces of a plane are its bytes in binary and in hexadecimal. -/
theorem mem_planeTexts (p : List Byte) (c : Fin 8) :
    binaryText (p.getD c.val 0#8) ∈ planeTexts p ∧ hexText (p.getD c.val 0#8) ∈ planeTexts p := by
  constructor <;> exact List.mem_flatMap.2 ⟨c, List.mem_finRange c, by simp⟩

/-- Every part of a file name stands in the written name. -/
theorem part_infix_writtenName {f : FileName} {t : Text} (h : t ∈ nameParts f) : t <:+: writtenName f :=
  infix_assemble Config.fileOrder (fun i => Config.fileGap i f) rfl h

@[simp] theorem length_digits (base n v : Nat) : (digits base n v).length = n := by
  induction n generalizing v with
  | zero => rfl
  | succ n ih => simp [digits, ih]

/-- Digits are below the base. -/
theorem lt_of_mem_digits {base n v d : Nat} (hb : 0 < base) (h : d ∈ digits base n v) : d < base := by
  induction n generalizing v with
  | zero => cases h
  | succ n ih =>
    rcases List.mem_append.1 h with h | h
    · exact ih h
    · rw [List.mem_singleton.1 h]; exact Nat.mod_lt _ hb

/-- Digits read back give the number, cut to as many digits. -/
theorem foldl_digits (base n v : Nat) : (digits base n v).foldl (fun m d => base * m + d) 0 = v % base ^ n := by
  induction n generalizing v with
  | zero => simp [digits, Nat.mod_one]
  | succ n ih => rw [digits, List.foldl_append, ih, Nat.pow_succ', Nat.mod_mul]; simp [Nat.add_comm]

theorem digitCount_pos (base fuel v : Nat) : 0 < digitCount base fuel v := by
  cases fuel <;> simp only [digitCount] <;> try split
  all_goals omega

/-- As many digits as the count says are enough, if the fuel was. -/
theorem lt_pow_digitCount {base : Nat} (hb : 0 < base) (fuel v : Nat) (h : v < base ^ (fuel + 1)) :
    v < base ^ digitCount base fuel v := by
  induction fuel generalizing v with
  | zero => simpa [digitCount] using h
  | succ n ih =>
    simp only [digitCount]
    split
    · simpa
    · rw [Nat.pow_succ]
      exact (Nat.div_lt_iff_lt_mul hb).1 (ih _ ((Nat.div_lt_iff_lt_mul hb).2 (by rwa [← Nat.pow_succ])))

/-- The digits of a byte are never none, are below the base, and read back give the byte. -/
theorem byteDigits_spec {base : Nat} (hb : 2 ≤ base) (width : Nat) (b : Byte) :
    byteDigits base width b ≠ [] ∧ (∀ d ∈ byteDigits base width b, d < base) ∧
    (byteDigits base width b).foldl (fun m d => base * m + d) 0 = b.toNat := by
  have hp := digitCount_pos base 7 b.toNat
  refine ⟨?_, fun d => lt_of_mem_digits (by omega), ?_⟩
  · intro h
    have := congrArg List.length h
    simp [byteDigits] at this
    omega
  · rw [byteDigits, foldl_digits]
    apply Nat.mod_eq_of_lt
    have h8 : 2 ^ (7 + 1) ≤ base ^ (7 + 1) := Nat.pow_le_pow_left hb _
    exact (lt_pow_digitCount (by omega) 7 b.toNat (by have := b.isLt; omega)).trans_le
      (Nat.pow_le_pow_right (by omega) (Nat.le_max_right _ _))

/-- The characters of a lit and an unlit pixel differ. -/
theorem pixelChar_injective : Function.Injective pixelChar := by
  have ascii : ∀ a : Fin 128, (Char.ofNat a.val).toNat = a.val := by decide
  have key : pixelChar true ≠ pixelChar false := by
    intro h
    have h1 := ascii Config.previewLit
    have h2 := ascii ⟨(Config.previewLit.val + 1 + Config.previewUnlitOffset.val) % 128, by omega⟩
    have h3 := congrArg Char.toNat h
    simp only [pixelChar, if_true] at h3
    simp only [Bool.false_eq_true, if_false] at h3 h2
    omega
  intro a b hab
  cases a <;> cases b <;> first | rfl | exact absurd hab key | exact absurd hab.symm key

end Sys2Proof.Machine
end

