-- ==== Sys2Proof/Tests/Slice0.lean ====
section
/-! SUPPORT. Tests. Expected values are the spec's own vectors (95_test_vectors.md, 30_encoding.md R70), written out by
hand; then a witness for the hypotheses of each statement that has some. -/

namespace Sys2Proof.Tests

open Sys2Proof.Machine

/-- The matrix whose row bytes are given, column 0 in bit 7 (95_test_vectors.md, "pack"). -/
def pic (rows : List Byte) : PixelMatrix := PixelMatrix.ofCells fun r c => (rows.getD r.val 0#8).getLsbD (7 - c.val)

/-- A state holding a picture, everything else as after reset. -/
def holding (rows : List Byte) : State := { State.reset with m := pic rows }

/-- A reset state with pending actions. -/
def pending (l : List Input) : State := { State.reset with inputs := l }

/-- The same in text mode. -/
def texting (l : List Input) : State := { pending l with mode := .text }

/-- The last response of an outcome, as bytes. -/
def answer (x : Result) : Option (List Byte) :=
  (stateAfter x).bind fun s => s.responses.getLast?.map Response.toBytes

/-- The matrix of an outcome. -/
def picture (x : Result) : Option PixelMatrix := (stateAfter x).map State.m

/-- 95_test_vectors.md's cross. -/
def cross : List Byte := [0x18#8, 0x18#8, 0x18#8, 0xFF#8, 0xFF#8, 0x18#8, 0x18#8, 0x18#8]

/-- The non-idle column bytes by address (R51). -/
def fullColumns : List Byte := [0xFE#8, 0xFD#8, 0xFB#8, 0xF7#8, 0xEF#8, 0xDF#8, 0xBF#8, 0x7F#8]

/-! ## Well-formedness: each check refuses an ill-formed term -/

theorem test_dec_too_long_is_ill_formed : (Instr.dec (List.replicate 256 0#8)).wellFormed = false := by
  rw [Laws.wellFormed_dec, List.length_replicate]; rfl

theorem test_ras_too_long_is_ill_formed : (Instr.ras (List.replicate 256 0#8)).wellFormed = false := by
  rw [Laws.wellFormed_ras, List.length_replicate]; rfl

theorem test_dec_longest_is_well_formed : (Instr.dec (List.replicate 255 0#8)).wellFormed = true := by
  rw [Laws.wellFormed_dec, List.length_replicate]; rfl

/-! ## Decoding: words written out from R60 to R65 -/

theorem test_decode_clr : decodeCommand [0b00000001#8] = .cmd .clr := by decide

theorem test_decode_tgl : decodeCommand [0b00000010#8, 0b00010101#8] = .cmd (.tgl 2 5) := by decide

theorem test_decode_ser : decodeCommand [0b00010000#8] = .cmd .ser := by decide

theorem test_decode_des : decodeCommand (0b00010001#8 :: cross) =
    .cmd (.des #v[0x18#8, 0x18#8, 0x18#8, 0xFF#8, 0xFF#8, 0x18#8, 0x18#8, 0x18#8]) := by decide

theorem test_decode_enc : decodeCommand [0b00100000#8] = .cmd .enc := by decide

theorem test_decode_rdc : decodeCommand [0b00100001#8, 0b00000011#8] = .cmd (.rdc 3) := by decide

theorem test_decode_rdr : decodeCommand [0b00100010#8, 0b00000111#8] = .cmd (.rdr 7) := by decide

theorem test_decode_dec : decodeCommand [0b00110000#8, 1#8, 0x41#8] = .cmd (.dec [0x41#8]) := by decide

theorem test_decode_ras : decodeCommand [0b00110001#8, 2#8, 0x48#8, 0x49#8] = .cmd (.ras [0x48#8, 0x49#8]) := by decide

theorem test_decode_dmx : decodeCommand (0b00110010#8 :: (fullColumns ++ cross)) =
    .cmd (.dmx #v[0xFE#8, 0xFD#8, 0xFB#8, 0xF7#8, 0xEF#8, 0xDF#8, 0xBF#8, 0x7F#8]
      #v[0x18#8, 0x18#8, 0x18#8, 0xFF#8, 0xFF#8, 0x18#8, 0x18#8, 0x18#8]) := by decide

/-- 95_test_vectors.md section 2.7, the error rows. -/
theorem test_decode_errors :
    [[], [0x00#8], [0x7F#8, 0x00#8, 0x00#8], [0x01#8, 0x00#8], [0x02#8], [0x02#8, 0xFF#8, 0x00#8], [0x02#8, 0xC0#8],
      [0x21#8, 0x08#8], [0x30#8], [0x30#8, 0x02#8, 0x01#8], [0x30#8, 0x00#8, 0x01#8]].map decodeCommand =
    [.err .length, .err .opcode, .err .opcode, .err .length, .err .length, .err .length, .err .operand,
      .err .operand, .err .length, .err .length, .err .length] := by decide

/-- A two-byte table word, numbered as spec/opcode_table.json numbers it: opcode in bits 15:8. -/
theorem test_table_word_tgl : decodeTableWord 16 0x0215 = some (.tgl 2 5) := by decide

/-- The same instruction with its first byte in bits 7:0. -/
theorem test_table_word_tgl_counted_on : decodeTableWord 16 0x1502 = some (.tgl 2 5) := by decide

/-- A row without operand bits gets operand bytes of zeros. -/
theorem test_table_word_des : decodeTableWord 8 0x11 = some (.des (Vector.replicate 8 0#8)) := by decide

theorem test_table_word_dec : decodeTableWord 8 0x30 = some (.dec []) := by decide

theorem test_table_word_dmx :
    decodeTableWord 8 0x32 = some (.dmx (Vector.replicate 8 0#8) (Vector.replicate 8 0#8)) := by decide

/-- A placed word is run by the very next step. -/
theorem test_fetch_word_runs : picture (step (State.reset.withFetchWord 16 0x0215)) = some (pic [0#8, 0#8, 0x04#8]) := by
  decide

/-! ## Meanings: vectors of 95_test_vectors.md part 2 and 3 -/

theorem test_clr : picture (exec .clr (holding cross)) = some (pic []) := by decide

theorem test_tgl_sets : picture (exec (.tgl 0 7) State.reset) = some (pic [0x01#8]) := by decide

theorem test_tgl_clears : picture (exec (.tgl 2 5) (holding (List.replicate 8 0xFF#8))) =
    some (pic [0xFF#8, 0xFF#8, 0xFB#8, 0xFF#8, 0xFF#8, 0xFF#8, 0xFF#8, 0xFF#8]) := by decide

theorem test_ser : answer (exec .ser (holding cross)) = some (0x00#8 :: cross) := by decide

theorem test_ser_pixel : answer (exec .ser (holding [0#8, 0#8, 0x04#8])) =
    some [0#8, 0#8, 0#8, 0x04#8, 0#8, 0#8, 0#8, 0#8, 0#8] := by decide

theorem test_des : picture (exec (.des #v[0x80#8, 0x40#8, 0x20#8, 0x10#8, 0x08#8, 0x04#8, 0x02#8, 0x01#8]) (holding cross)) =
    some (PixelMatrix.ofCells fun r c => decide (r = c)) := by decide

theorem test_enc_all_on : answer (exec .enc (holding (List.replicate 8 0xFF#8))) =
    some (0x00#8 :: (fullColumns ++ List.replicate 8 0x00#8)) := by decide

/-- "HI 2025AB" of section 2.1. -/
theorem test_enc_text :
    answer (exec .enc (holding [0x48#8, 0x49#8, 0x20#8, 0x32#8, 0x30#8, 0x32#8, 0x35#8, 0x41#8])) =
    some [0x00#8, 0xFF#8, 0xFD#8, 0xFB#8, 0xF7#8, 0xEF#8, 0xDF#8, 0xBF#8, 0x7F#8,
      0xFF#8, 0x7C#8, 0x83#8, 0x87#8, 0xFC#8, 0xBF#8, 0xD7#8, 0x3D#8] := by decide

theorem test_rdc : answer (exec (.rdc 5) (holding [0#8, 0#8, 0x04#8])) = some [0x00#8, 0xDF#8] := by decide

theorem test_rdc_idle : answer (exec (.rdc 4) (holding [0#8, 0#8, 0x04#8])) = some [0x00#8, 0xFF#8] := by decide

theorem test_rdr : answer (exec (.rdr 5) (holding [0#8, 0#8, 0x04#8])) = some [0x00#8, 0xFB#8] := by decide

theorem test_rdr_row_seven : answer (exec (.rdr 0) (holding [0#8, 0#8, 0#8, 0#8, 0#8, 0#8, 0#8, 0x80#8])) =
    some [0x00#8, 0x7F#8] := by decide

theorem test_dec_short : picture (exec (.dec [0xFF#8, 0x81#8, 0x01#8]) (holding cross)) =
    some (pic [0xFF#8, 0x81#8, 0x01#8]) := by decide

theorem test_dec_long : picture (exec (.dec (cross ++ [0xAA#8, 0xAA#8])) State.reset) = some (pic cross) := by decide

theorem test_ras : answer (exec (.ras [0x48#8, 0x49#8]) State.reset) = some [0x00#8, 0x48#8, 0x49#8] := by decide

/-- DOC0 §8 item 8's bits of 'A'. -/
theorem test_ras_bits : bytesToBits [0x41#8] = [false, true, false, false, false, false, false, true] := by decide

/-- Scan position 0 selects columns 0 and 1; the byte at scan 1 lights nothing, its column byte is idle. -/
theorem test_dmx_hand_made : picture (exec (.dmx
    #v[0xFC#8, 0xFF#8, 0xFF#8, 0xFF#8, 0xFF#8, 0xFF#8, 0xFF#8, 0xFF#8]
    #v[0xFE#8, 0x00#8, 0xFF#8, 0xFF#8, 0xFF#8, 0xFF#8, 0xFF#8, 0xFF#8]) (holding cross)) =
    some (pic [0xC0#8]) := by decide

theorem test_dmx_position : picture (exec (.dmx
    #v[0xFD#8, 0xFF#8, 0xFF#8, 0xFF#8, 0xFF#8, 0xFF#8, 0xFF#8, 0xFF#8]
    #v[0xFE#8, 0xFF#8, 0xFF#8, 0xFF#8, 0xFF#8, 0xFF#8, 0xFF#8, 0xFF#8]) State.reset) =
    some (pic [0x40#8]) := by decide

/-- P6 step 8: a CLR with a trailing byte does not clear. -/
theorem test_trailing_byte :
    (stateAfter (present [0x01#8, 0x00#8] (holding cross))).map (fun s => (s.m, s.responses.map Response.toBytes)) =
    some (pic cross, [[0x03#8]]) := by decide

/-! ## The host: section 2.6 and program P7 -/

theorem test_gate : [['P', 'h', ' ', '2'], List.replicate 20 ' ', List.replicate 21 'A', ['A', '@'],
      '@' :: List.replicate 21 'A', []].map validate =
    [none, none, some .tooLong, some .invalidCharset, some .invalidCharset, none] := by decide

theorem test_text_rejected :
    (stateAfter (step { holding cross with inputs := [.textEdit ['S', 'O', 'S', '@']], mode := .text })).map
      (fun s => (s.m, s.rejection, s.responses.map Response.toBytes)) =
    some (pic cross, some .invalidCharset, [[0x10#8]]) := by decide

theorem test_rejection_reason :
    (stateAfter (step (texting [.textEdit (List.replicate 21 'A')]))).map (fun s => s.responses.map Response.reason) =
    some [some "too long.".toList] := by decide

theorem test_text_accepted : picture (step (texting [.textEdit ['s', 'o', 's']])) = some (pic [0x53#8, 0x4F#8, 0x53#8]) := by
  decide

/-- R160's notation, digits by hand: 0xA5 is 1010 0101, and 0x05 needs three binary digits. -/
theorem test_digits : byteDigits 2 1 0xA5#8 = [1, 0, 1, 0, 0, 1, 0, 1] ∧ byteDigits 2 1 0x05#8 = [1, 0, 1] ∧
    byteDigits 2 8 0x05#8 = [0, 0, 0, 0, 0, 1, 0, 1] ∧ byteDigits 16 1 0xA5#8 = [10, 5] ∧
    byteDigits 16 1 0x00#8 = [0] ∧ byteDigits 2 1 0xFF#8 = [1, 1, 1, 1, 1, 1, 1, 1] := by decide

theorem test_export_files :
    (stateAfter (step { holding cross with inputs := [.exportPlanes 7 .accepted] })).map
      (fun s => s.files.map ExportFile.bytes) =
    some [fullColumns, [0xE7#8, 0xE7#8, 0xE7#8, 0x00#8, 0x00#8, 0xE7#8, 0xE7#8, 0xE7#8]] := by decide

/-- R118 after an accepted edit to "A": the planes of "A" (0x41 in row 0), not of the blank matrix. -/
theorem test_text_export_is_the_text :
    (stateAfter (step { texting [.exportPlanes 7 .accepted] with text := ['A'], m := textMatrix ['A'] })).map
      (fun s => s.files.map ExportFile.bytes) =
    some [[0xFF#8, 0xFD#8, 0xFF#8, 0xFF#8, 0xFF#8, 0xFF#8, 0xFF#8, 0x7F#8],
      [0xFF#8, 0xFE#8, 0xFF#8, 0xFF#8, 0xFF#8, 0xFF#8, 0xFF#8, 0xFE#8]] := by decide

theorem test_save_keeps_row_bytes :
    (stateAfter (step { holding cross with inputs := [.savePattern ['x'] 3] })).map (fun s => s.saved.map Pattern.rows) =
    some [cross] := by decide

/-! ## Witnesses: a concrete case for the hypotheses of each statement that has some -/

theorem witness_ResetEventRestoresTheResetValues : (pending [.reset]).inputs = .reset :: [] := rfl

theorem witness_TglComplementsOneCell :
    (0x80#8 : Byte).getLsbD 7 = true ∧ (0x40#8 : Byte).getLsbD 6 = true ∧ State.reset.power = .running ∧
    ¬((0 : Fin 8) = 2 ∧ (0 : Fin 8) = 5) ∧ (4 : Fin 8) ≠ 5 ∧ (∀ r : Fin 8, State.reset.m.cell r 5 = false) ∧
    ∀ r : Fin 8, (toggleCell (pic [0#8, 0#8, 0x04#8]) 2 5).cell r 5 = false := by decide

theorem witness_DesLoadsTheImmediate : (List.replicate 7 0#8).length ≠ 8 ∧ (List.replicate 9 0#8).length ≠ 8 := by decide

theorem witness_EncReturnsBothPlanes : (∃ r, (pic [0x01#8]).cell r 7 = true) ∧ ∀ r, (pic [0x01#8]).cell r 6 = false := by
  decide

theorem witness_RdcReturnsTheColumnByte :
    8 ≤ (0x08#8 : Byte).toNat ∧ 8 ≤ (0xFF#8 : Byte).toNat ∧ State.reset.power = .running ∧
    (∃ r, (pic [0x01#8]).cell r 7 = true) ∧ ∀ r, (pic [0x01#8]).cell r 0 = false := by decide

theorem witness_RdrReturnsTheRowByte : 8 ≤ (0x08#8 : Byte).toNat ∧ State.reset.power = .running := by decide

theorem witness_DecLoadsTheBuffer :
    (List.replicate 255 0#8 : List Byte).length ≤ 255 ∧ ([] : List Byte).length ≠ (1#8 : Byte).toNat ∧
    State.reset.power = .running := ⟨by rw [List.length_replicate], by decide, by decide⟩

theorem witness_RasReturnsEveryBit : 0 < ([0x41#8] : List Byte).length ∧ ([] : List Byte).length ≤ 255 := by decide

theorem witness_DmxLoadsTheDisplayedPicture : (List.replicate 15 0#8 : List Byte).length ≠ 16 := by decide

theorem witness_ReadersChangeNothingAndRepeat :
    [Instr.ser, .enc, .rdc 7, .rdr 0, .ras []].all (fun i => !writesMatrix i) = true ∧
    ∃ t, exec (.rdr 0) State.reset = .next t := ⟨by decide, _, rfl⟩

theorem witness_DecoderChecksInOrder :
    (0x03#8 : Byte) ∉ [0x01#8, 0x02#8, 0x10#8, 0x11#8, 0x20#8, 0x21#8, 0x22#8, 0x30#8, 0x31#8, 0x32#8] ∧
    (0x20#8 : Byte) ∈ [0x01#8, 0x10#8, 0x20#8] ∧ ([0#8] : List Byte).length ≠ 0 ∧
    (0x22#8 : Byte) ∈ [0x02#8, 0x21#8, 0x22#8] ∧ ([] : List Byte).length ≠ 1 ∧
    (List.replicate 7 0#8 : List Byte).length ≠ 8 ∧ (List.replicate 17 0#8 : List Byte).length ≠ 16 ∧
    (0x31#8 : Byte) ∈ [0x30#8, 0x31#8] ∧ ([1#8] : List Byte).length ≠ (0#8 : Byte).toNat ∧
    ([1#8] : List Byte).length = (1#8 : Byte).toNat ∧
    (0x40#8 : Byte).getLsbD 6 = true ∧ (0x3F#8 : Byte).toNat = 8 * (7 : Fin 8).val + (7 : Fin 8).val ∧
    8 ≤ (0x08#8 : Byte).toNat ∧ (0x07#8 : Byte).toNat = (7 : Fin 8).val ∧
    fullColumns = (#v[0xFE#8, 0xFD#8, 0xFB#8, 0xF7#8, 0xEF#8, 0xDF#8, 0xBF#8, 0x7F#8] : Plane).toList := by decide

theorem witness_DecodeOfEncodeIsTheCommand : (Instr.tgl 7 7).wellFormed = true ∧
    (Instr.dec (List.replicate 255 0#8)).wellFormed = true :=
  ⟨rfl, by rw [Laws.wellFormed_dec, List.length_replicate]; rfl⟩

theorem witness_DecodedStringIsTheEncoding : decodeCommand [0x02#8, 0x3F#8] = .cmd (.tgl 7 7) := by decide

theorem witness_StepRunsTheDecodedCommand :
    (pending [.command [0x10#8]]).inputs = .command [0x10#8] :: [] ∧
    (pending [.command [0x10#8]]).power = .running ∧ decodeCommand [0x10#8] = .cmd .ser ∧
    Instr.ser.wellFormed = true := by decide

theorem witness_ErrorOutcomeChangesNothing :
    (pending [.command []]).inputs = .command [] :: [] ∧ (pending [.command []]).power = .running ∧
    decodeCommand [] = .err .length := by decide

theorem witness_EveryCommandAnswersExactlyOnce :
    (pending [.command [0xFF#8]]).inputs = .command [0xFF#8] :: [] ∧
    (pending [.command [0xFF#8]]).power = .running := by decide

theorem witness_ResponseDependsOnMatrixAndBytesOnly :
    State.reset.power = .running ∧ (pending [.preview]).power = .running ∧
    State.reset.m = (pending [.preview]).m ∧ State.reset ≠ pending [.preview] := by decide

theorem witness_RunsFromEqualMatricesAgree :
    (pending [.command [0x10#8], .command [0x00#8]]).power = .running ∧
    (pending [.command [0x10#8], .command [0x00#8]]).inputs = [[0x10#8], [0x00#8]].map .command := by decide

theorem witness_FailedCommandLeavesNoTrace :
    (pending [.command [0x00#8], .command [0x10#8]]).inputs = .command [0x00#8] :: .command [0x10#8] :: [] ∧
    (pending [.command [0x00#8], .command [0x10#8]]).power = .running ∧ decodeCommand [0x00#8] = .err .opcode := by decide

theorem witness_OnlyListedEventsWriteTheMatrix :
    ∃ t, step (pending [.command [0x02#8, 0x00#8]]) = .next t ∧ t.m ≠ (pending [.command [0x02#8, 0x00#8]]).m :=
  ⟨_, rfl, by decide⟩

theorem witness_StepRefusesOnlyTheListedSituations :
    step (pending [.overlap [] []]) = .refused .overlappingCommands ∧
    step (pending [.rasterize ['@']]) = .refused .unvalidatedText ∧
    step { pending [.command []] with power := .unreset } = .refused .notReset ∧
    step (pending [.loadSaved 0]) = .refused .noSuchPattern := ⟨rfl, rfl, rfl, rfl⟩

theorem witness_PowerLossRefusesUntilReset :
    ({ pending [.command []] with power := .unreset } : State).power = .unreset ∧
    ({ pending [.command []] with power := .unreset } : State).inputs = .command [] :: [] ∧
    (∃ t, step { pending [.importFile .failed] with power := .unreset } = .next t ∧
      ∀ rest, ({ pending [.importFile .failed] with power := .unreset } : State).inputs ≠ .reset :: rest) ∧
    ({ pending [.reset] with power := .unreset } : State).inputs = .reset :: [] ∧
    (pending [.powerLoss, .command [0x10#8]]).inputs = .powerLoss :: .command [0x10#8] :: [] ∧
    (pending [.powerLoss, .reset]).inputs = .powerLoss :: .reset :: [] :=
  ⟨rfl, rfl, ⟨_, rfl, fun _ h => by cases h⟩, rfl, rfl, rfl⟩

theorem witness_BytesToBitsIsMsbFirst : 0 < ([0x41#8] : List Byte).length := by decide

theorem witness_CodecIsRowMajor : (21 : Fin 64).val = (2 : Fin 8).val * 8 + (5 : Fin 8).val := by decide

theorem witness_CodecRoundTrips : (List.replicate 64 true : RawBits).length = 64 := by decide

theorem witness_PlaneInvariants :
    (encodePlanes (pic [0x80#8])).1.get 0 ≠ 0xFF#8 ∧
    (encodePlanes (pic cross)).2 = (encodePlanes (pic cross)).2 ∧
    (∀ r, (pic [0x80#8]).cell r 7 = (pic [0x40#8]).cell r 7) ∧ pic [0x80#8] ≠ pic [0x40#8] := by decide

theorem witness_OnlyEightBytesMatter :
    (cross ++ [0xAA#8]).take 8 = (cross ++ [0x55#8]).take 8 ∧ cross ++ [0xAA#8] ≠ cross ++ [0x55#8] := by decide

theorem witness_CommandsEquivalentToReset : Instr.dec [] ∈ [Instr.clr, .dec [], .des (Vector.replicate 8 0#8),
    .dmx (Vector.replicate 8 0xFF#8) (Vector.replicate 8 0xFF#8)] := by decide

theorem witness_DisplayInvertsEncode :
    (Vector.replicate 8 0xFF#8 : Plane).get 3 = 0xFF#8 ∧
    (∀ k : Fin 8, k ≠ 3 → ((Vector.replicate 8 0#8 : Plane).set 3 1#8).get k = (Vector.replicate 8 0#8 : Plane).get k) := by
  decide

theorem witness_GateVerdicts :
    (texting [.textEdit ['a']]).inputs = .textEdit ['a'] :: [] ∧ (texting [.textEdit ['a']]).power = .running := ⟨rfl, rfl⟩

theorem witness_UpperIsAsciiOnly : ('a' ≤ 'z' ∧ 'z' ≤ 'z') ∧ ¬('a' ≤ '0' ∧ '0' ≤ 'z') := by decide

theorem witness_RejectedTextLeavesTheMatrix :
    (texting [.textEdit ['@']]).inputs = .textEdit ['@'] :: [] ∧
    validate ['@'] = some .invalidCharset := by decide

theorem witness_AcceptedTextLoadsItsMatrix :
    (texting [.textEdit ['a']]).inputs = .textEdit ['a'] :: [] ∧ (texting [.textEdit ['a']]).mode = .text ∧
    validate ['a'] = none ∧ (texting [.textEdit ['a']]).power = .running ∧ ('A' ≤ 'Z' ∧ 'Z' ≤ 'Z') := by decide

theorem witness_TextColumnZeroIsIdleAndTailIsCut : validate (List.replicate 20 'A') = none := by decide

theorem witness_RasterizeNeedsValidation :
    0 < ['A'].length ∧ (pending [.rasterize ['A']]).inputs = .rasterize ['A'] :: [] ∧ (pending [.rasterize ['A']]).power = .running ∧
    validate ['A'] = none ∧ (pending [.rasterize ['@']]).inputs = .rasterize ['@'] :: [] ∧
    (pending [.rasterize ['@']]).power = .running ∧ validate ['@'] = some .invalidCharset := by decide

theorem witness_TextImportLeavesTheMatrix :
    ({ pending [.importFile (.delivered [0x41#8])] with mode := .text } : State).inputs =
      .importFile (.delivered [0x41#8]) :: [] ∧
    ({ pending [.importFile (.delivered [0x41#8])] with mode := .text } : State).mode = .text := ⟨rfl, rfl⟩

theorem witness_MatrixImportLoadsTheFile :
    (pending [.importFile (.delivered [0x41#8])]).inputs = .importFile (.delivered [0x41#8]) :: [] ∧
    (pending [.importFile (.delivered [0x41#8])]).mode = .draw ∧
    (pending [.importFile (.delivered [0x41#8])]).power = .running := ⟨rfl, rfl, rfl⟩

theorem witness_FileFailureLeavesTheMatrix :
    (pending [.importFile .failed]).inputs = .importFile .failed :: [] ∧
    (pending [.exportPlanes 0 .failed]).inputs = .exportPlanes 0 .failed :: [] ∧
    (pending [.exportPlanes 0 .failed]).power = .running ∧ (pending [.exportPlanes 0 .failed]).rejection = none ∧
    validate (pending [.exportPlanes 0 .failed]).text = none := ⟨rfl, rfl, rfl, rfl, by decide⟩

theorem witness_ExportWritesThePlanes :
    (pending [.exportPlanes 0 .accepted]).inputs = .exportPlanes 0 .accepted :: [] ∧
    (pending [.exportPlanes 0 .accepted]).power = .running ∧ (pending [.exportPlanes 0 .accepted]).rejection = none ∧
    validate (pending [.exportPlanes 0 .accepted]).text = none ∧
    (texting [.textEdit ['A'], .exportPlanes 0 .accepted]).inputs = .textEdit ['A'] :: .exportPlanes 0 .accepted :: [] ∧
    (texting [.textEdit ['A'], .exportPlanes 0 .accepted]).mode = .text ∧
    (texting [.textEdit ['A'], .exportPlanes 0 .accepted]).power = .running ∧ validate ['A'] = none :=
  ⟨rfl, rfl, rfl, by decide, rfl, rfl, rfl, by decide⟩

theorem witness_RejectionDisablesPreviewAndExport :
    ({ pending [.preview] with rejection := some .tooLong } : State).inputs = .preview :: [] ∧
    ({ pending [.preview] with rejection := some .tooLong } : State).rejection = some .tooLong ∧
    ({ pending [.preview] with text := ['@'] } : State).inputs = .preview :: [] ∧
    ({ pending [.preview] with text := ['@'] } : State).rejection = none ∧
    validate ({ pending [.preview] with text := ['@'] } : State).text = some .invalidCharset :=
  ⟨rfl, rfl, rfl, rfl, by decide⟩

theorem witness_PreviewRendersTheCurrentPicture :
    (pending [.preview]).inputs = .preview :: [] ∧ (pending [.preview]).power = .running ∧
    (pending [.preview]).rejection = none ∧ validate (pending [.preview]).text = none := ⟨rfl, rfl, rfl, by decide⟩

/-- The state after a save is itself a state from which the pattern can be loaded, and from which `SETM` can run. -/
theorem witness_SavedPatternRestoresThePicture :
    (pending [.savePattern [] 0, .loadSaved 0]).inputs = .savePattern [] 0 :: [.loadSaved 0] ∧
    (pending [.savePattern [] 0, .loadSaved 0]).power = .running ∧
    (∃ t, step (pending [.savePattern [] 0, .loadSaved 0]) = .next t ∧ t.power = .running ∧
      t.mode = .draw ∧ t.inputs = .loadSaved 0 :: []) ∧
    (pending [.setMatrix State.blank]).inputs = .setMatrix State.blank :: [] ∧
    (pending [.setMatrix State.blank]).power = .running := ⟨rfl, rfl, ⟨_, rfl, rfl, rfl, rfl⟩, rfl, rfl⟩

theorem witness_PatternLoadReplacesTheMatrix :
    (pending [.loadPattern []]).inputs = .loadPattern [] :: [] ∧ (pending [.loadPattern []]).mode = .draw ∧
    (pending [.loadPattern []]).power = .running := ⟨rfl, rfl, rfl⟩

theorem witness_ModeDecidesTheSource :
    (pending [.togglePixel 7 0]).inputs = .togglePixel 7 0 :: [] ∧ (pending [.togglePixel 7 0]).mode = .draw ∧
    (pending [.togglePixel 7 0]).power = .running ∧ (pending [.textEdit []]).inputs = .textEdit [] :: [] ∧
    (pending [.textEdit []]).mode = .draw ∧ validate [] = none ∧ (texting [.loadSaved 0]).inputs = .loadSaved 0 :: [] ∧
    (texting [.loadSaved 0]).mode = .text ∧ textPicture (texting [.textEdit ['A']]) ∧
    ∃ t, step (texting [.textEdit ['A']]) = .next t :=
  ⟨rfl, rfl, rfl, rfl, rfl, by decide, rfl, rfl, fun _ => by decide, _, rfl⟩

theorem witness_TabSwitchDiscardsTheMatrix :
    (pending [.tabSwitch]).inputs = .tabSwitch :: [] ∧ (pending [.tabSwitch]).power = .running := ⟨rfl, rfl⟩

theorem witness_StepKeepsTheInvariant :
    (pending [.exportPlanes 0 .accepted]).wf = true ∧
    ∃ t, step (pending [.exportPlanes 0 .accepted]) = .next t := ⟨by decide, _, rfl⟩

end Sys2Proof.Tests
end

section
/-! SUPPORT. The decoder's checks, one law per check of 30_encoding.md R68, and what the operand fields of R63 to R65
read back; then the statement about the whole decoder. -/

namespace Sys2Proof

/-! ## Byte 0: the opcode table and its inverse (R60, R69) -/

@[simp] theorem Opcode.ofByte_byte (o : Opcode) : Opcode.ofByte o.byte = some o := by cases o <;> rfl

theorem Opcode.byte_eq_of_ofByte {b : Byte} {o : Opcode} (h : Opcode.ofByte b = some o) : o.byte = b := by
  unfold Opcode.ofByte at h
  split at h <;> cases h <;> rfl

/-- R60's table has ten rows. -/
def Opcode.all : List Opcode := [.clr, .tgl, .ser, .des, .enc, .rdc, .rdr, .dec, .ras, .dmx]

theorem Opcode.mem_all (o : Opcode) : o ∈ Opcode.all := by cases o <;> decide

theorem Opcode.ofByte_eq_none {b : Byte} (h : b ∉ Opcode.all.map Opcode.byte) : Opcode.ofByte b = none :=
  Option.eq_none_iff_forall_ne_some.mpr fun o ho =>
    h (Opcode.byte_eq_of_ofByte ho ▸ List.mem_map_of_mem (Opcode.mem_all o))

/-! ## The decoder, one law per check (R68) -/

theorem decodeCommand_unknown_opcode {b : Byte} (args : List Byte) (h : b ∉ Opcode.all.map Opcode.byte) :
    decodeCommand (b :: args) = .err .opcode := by
  simp only [decodeCommand, Opcode.ofByte_eq_none h]

section
variable {o : Opcode} {args : List Byte}

theorem decodeCommand_wrong_length (h : o.format.argLength args ≠ some args.length) :
    decodeCommand (o.byte :: args) = .err .length := by
  simp only [decodeCommand, Opcode.ofByte_byte, if_neg h]

theorem decodeCommand_reserved_bit (hlen : o.format.argLength args = some args.length)
    (hres : o.format.reservedZero args = false) : decodeCommand (o.byte :: args) = .err .operand := by
  simp [decodeCommand, hlen, hres]

theorem decodeCommand_fields (hlen : o.format.argLength args = some args.length)
    (hres : o.format.reservedZero args = true) : decodeCommand (o.byte :: args) = .cmd (o.build args) := by
  simp [decodeCommand, hlen, hres]

end

/-- The length check for the opcodes of a group whose formats all ask for `need` operand bytes. -/
theorem decodeCommand_length_of_group {group : List Opcode} {need : Nat} {b : Byte} {args : List Byte}
    (hgroup : ∀ o ∈ group, o.format.argLength args = some need) (hb : b ∈ group.map Opcode.byte)
    (hlen : args.length ≠ need) : decodeCommand (b :: args) = .err .length := by
  obtain ⟨o, ho, rfl⟩ := List.mem_map.mp hb
  exact decodeCommand_wrong_length fun h => hlen (Option.some.inj (h.symm.trans (hgroup o ho)))

/-- Format V without its length byte has no right length. -/
theorem decodeCommand_no_length_byte {group : List Opcode} {b : Byte} (hgroup : ∀ o ∈ group, o.format = .V)
    (hb : b ∈ group.map Opcode.byte) : decodeCommand [b] = .err .length := by
  obtain ⟨o, ho, rfl⟩ := List.mem_map.mp hb
  exact decodeCommand_wrong_length (by simp [hgroup o ho, Format.argLength])

/-! ## The operand byte of formats A and C (R63) -/

theorem reservedZero_A (b : Byte) : Format.reservedZero .A [b] = decide (b.toNat < 64) := by
  have hb : b.toNat < 256 := b.isLt
  rw [Bool.eq_iff_iff]
  simp [Format.reservedZero, bitSlice, argByte]
  omega

theorem reservedZero_C (b : Byte) : Format.reservedZero .C [b] = decide (b.toNat < 8) := by
  have hb : b.toNat < 256 := b.isLt
  rw [Bool.eq_iff_iff]
  simp [Format.reservedZero, bitSlice, argByte]
  omega

theorem le_toNat_of_high_bit {b : Byte} (h : b.getLsbD 7 = true ∨ b.getLsbD 6 = true) : 64 ≤ b.toNat := by
  rcases h with h7 | h6
  · exact le_trans (by decide) (Nat.ge_two_pow_of_testBit h7)
  · exact Nat.ge_two_pow_of_testBit h6

theorem rowField_eq {b : Byte} {r c : Fin 8} (h : b.toNat = 8 * r.val + c.val) : rowField b = r := by
  apply Fin.ext
  simp [rowField, bitSlice, h]
  omega

theorem colField_eq {b : Byte} {k : Nat} {c : Fin 8} (h : b.toNat = 8 * k + c.val) : colField b = c := by
  apply Fin.ext
  simp [colField, bitSlice, h]

theorem decodeCommand_tgl_high_bit {b : Byte} (h : b.getLsbD 7 = true ∨ b.getLsbD 6 = true) :
    decodeCommand [0x02#8, b] = .err .operand :=
  decodeCommand_reserved_bit (o := .tgl) rfl
    ((reservedZero_A b).trans (decide_eq_false (Nat.not_lt.mpr (le_toNat_of_high_bit h))))

theorem decodeCommand_tgl {b : Byte} {r c : Fin 8} (h : b.toNat = 8 * r.val + c.val) :
    decodeCommand [0x02#8, b] = .cmd (.tgl r c) := by
  have hres : Format.reservedZero .A [b] = true := (reservedZero_A b).trans (decide_eq_true (by omega))
  have hbuild : Opcode.build .tgl [b] = .tgl r c := congrArg₂ Instr.tgl (rowField_eq h) (colField_eq h)
  exact (decodeCommand_fields (o := .tgl) rfl hres).trans (congrArg Decoded.cmd hbuild)

section
variable {o : Opcode} {b : Byte}

theorem decodeCommand_formatC_reserved (ho : o.format = .C) (h : 8 ≤ b.toNat) :
    decodeCommand [o.byte, b] = .err .operand :=
  decodeCommand_reserved_bit (by rw [ho]; rfl)
    (by rw [ho, reservedZero_C]; exact decide_eq_false (Nat.not_lt.mpr h))

theorem decodeCommand_formatC_fields (ho : o.format = .C) {c : Fin 8} (h : b.toNat = c.val) :
    decodeCommand [o.byte, b] = .cmd (o.build [b]) :=
  decodeCommand_fields (by rw [ho]; rfl) (by rw [ho, reservedZero_C]; exact decide_eq_true (h ▸ c.isLt))

end

theorem colField_of_toNat {b : Byte} {c : Fin 8} (h : b.toNat = c.val) : colField b = c :=
  colField_eq (k := 0) (by omega)

theorem decodeCommand_rdc {b : Byte} {c : Fin 8} (h : b.toNat = c.val) : decodeCommand [0x21#8, b] = .cmd (.rdc c) := by
  have hbuild : Opcode.build .rdc [b] = .rdc c := congrArg Instr.rdc (colField_of_toNat h)
  exact (decodeCommand_formatC_fields (o := .rdc) rfl h).trans (congrArg Decoded.cmd hbuild)

theorem decodeCommand_rdr {b : Byte} {c : Fin 8} (h : b.toNat = c.val) : decodeCommand [0x22#8, b] = .cmd (.rdr c) := by
  have hbuild : Opcode.build .rdr [b] = .rdr c := congrArg Instr.rdr (colField_of_toNat h)
  exact (decodeCommand_formatC_fields (o := .rdr) rfl h).trans (congrArg Decoded.cmd hbuild)

/-! ## The operand bytes of formats Q, P and V (R64, R65) -/

/-- Eight bytes read from the place where they were put are those bytes. -/
theorem argPlane_append (pre : List Byte) (v : Vector Byte 8) (post : List Byte) :
    argPlane (pre ++ (v.toList ++ post)) pre.length = v := by
  refine Vector.ext fun j hj => ?_
  simp [argPlane, argByte, List.getElem?_append]

theorem decodeCommand_des (imm : Vector Byte 8) : decodeCommand (0x11#8 :: imm.toList) = .cmd (.des imm) := by
  have hlen : Format.argLength .Q imm.toList = some imm.toList.length := by simp [Format.argLength]
  have himm : argPlane imm.toList 0 = imm := by simpa using argPlane_append [] imm []
  exact (decodeCommand_fields (o := .des) hlen rfl).trans (congrArg (fun v => Decoded.cmd (.des v)) himm)

theorem decodeCommand_dmx (cp rp : Plane) :
    decodeCommand (0x32#8 :: (cp.toList ++ rp.toList)) = .cmd (.dmx cp rp) := by
  have hlen : Format.argLength .P (cp.toList ++ rp.toList) = some (cp.toList ++ rp.toList).length := by
    simp [Format.argLength]
  have hcp : argPlane (cp.toList ++ rp.toList) 0 = cp := argPlane_append [] cp rp.toList
  have hrp : argPlane (cp.toList ++ rp.toList) 8 = rp := by simpa using argPlane_append cp.toList rp []
  exact (decodeCommand_fields (o := .dmx) hlen rfl).trans
    (congrArg₂ (fun c r => Decoded.cmd (.dmx c r)) hcp hrp)

section
variable {o : Opcode} {n : Byte} {raw : List Byte}

theorem argLength_V_eq_iff :
    Format.argLength .V (n :: raw) = some (n :: raw).length ↔ raw.length = n.toNat := by
  simp [Format.argLength]
  omega

theorem decodeCommand_formatV_length (ho : o.format = .V) (h : raw.length ≠ n.toNat) :
    decodeCommand (o.byte :: n :: raw) = .err .length :=
  decodeCommand_wrong_length (by rw [ho]; exact mt argLength_V_eq_iff.mp h)

theorem decodeCommand_formatV_fields (ho : o.format = .V) (h : raw.length = n.toNat) :
    decodeCommand (o.byte :: n :: raw) = .cmd (o.build (n :: raw)) :=
  decodeCommand_fields (by rw [ho]; exact argLength_V_eq_iff.mpr h) (by rw [ho]; rfl)

end

/-- Settles O15: each clause is one of the laws above, at the opcodes the clause names. -/
theorem decoderChecksInOrder : Obligations.DecoderChecksInOrder := by
  have hV : ∀ o ∈ [Opcode.dec, .ras], o.format = .V := by decide
  refine ⟨rfl, fun op a => ⟨?opcode, ?lengthZ, ?lengthAC, ?lengthQ, ?lengthP, ?noLengthByte, ?lengthV, ?tgl,
    ?readPlane, ?formatZ, ?des, ?dmx, ?dec, ?ras⟩⟩
  case opcode => exact decodeCommand_unknown_opcode a
  case lengthZ =>
    exact decodeCommand_length_of_group (group := [.clr, .ser, .enc]) (by simp [Opcode.format, Format.argLength])
  case lengthAC =>
    exact decodeCommand_length_of_group (group := [.tgl, .rdc, .rdr]) (by simp [Opcode.format, Format.argLength])
  case lengthQ =>
    rintro rfl
    exact decodeCommand_length_of_group (group := [.des]) (by simp [Opcode.format, Format.argLength]) (by decide)
  case lengthP =>
    rintro rfl
    exact decodeCommand_length_of_group (group := [.dmx]) (by simp [Opcode.format, Format.argLength]) (by decide)
  case noLengthByte =>
    rintro hop rfl
    exact decodeCommand_no_length_byte hV hop
  case lengthV =>
    rintro hop n raw rfl hlen
    obtain ⟨o, ho, rfl⟩ := List.mem_map.mp (show op ∈ [Opcode.dec, .ras].map Opcode.byte from hop)
    exact decodeCommand_formatV_length (hV o ho) hlen
  case tgl =>
    rintro rfl b rfl
    exact ⟨decodeCommand_tgl_high_bit, fun _ _ => decodeCommand_tgl⟩
  case readPlane =>
    rintro hop b rfl
    obtain rfl | rfl : op = 0x21#8 ∨ op = 0x22#8 := by simpa using hop
    · exact ⟨decodeCommand_formatC_reserved (o := .rdc) rfl, fun _ => decodeCommand_rdc⟩
    · exact ⟨decodeCommand_formatC_reserved (o := .rdr) rfl, fun _ => decodeCommand_rdr⟩
  case formatZ =>
    rintro rfl
    exact ⟨by rintro rfl; rfl, by rintro rfl; rfl, by rintro rfl; rfl⟩
  case des =>
    rintro rfl imm rfl
    exact decodeCommand_des imm
  case dmx =>
    rintro rfl cp rp rfl
    exact decodeCommand_dmx cp rp
  case dec =>
    rintro rfl n raw rfl
    exact decodeCommand_formatV_fields (o := .dec) rfl
  case ras =>
    rintro rfl n raw rfl
    exact decodeCommand_formatV_fields (o := .ras) rfl

end Sys2Proof
end

section
/-! SUPPORT. The byte serialiser's operations (40_byte_serializer.md R80 to R82, R85), one reasoning rule each; then the
statements about them. -/

namespace Sys2Proof.Machine

/-! ## Bytes as bits (R80) -/

theorem length_bytesToBits (bytes : List Byte) : (bytesToBits bytes).length = 8 * bytes.length := by
  induction bytes with
  | nil => rfl
  | cons v rest ih =>
    rw [bytesToBits_cons, List.length_append, length_byteBits, ih, List.length_cons]
    omega

/-- Entry `8j+i` is bit `7-i` of byte `j`; past the last byte both sides read 0. -/
theorem getD_bytesToBits (bytes : List Byte) (j : Nat) (i : Fin 8) :
    (bytesToBits bytes).getD (8 * j + i.val) false = (bytes.getD j 0#8).getLsbD (7 - i.val) := by
  induction bytes generalizing j with
  | nil => simp
  | cons v rest ih =>
    rw [bytesToBits_cons]
    cases j with
    | zero =>
      rw [List.getD_append _ _ _ _ (by simp)]
      simpa using getD_byteBits v i
    | succ j =>
      have hidx : 8 * (j + 1) + i.val - (byteBits v).length = 8 * j + i.val := by simp; omega
      rw [List.getD_append_right _ _ _ _ (by simp; omega), hidx, ih, List.getD_cons_succ]

/-- Settles O28: the length and the entries of `bytesToBits`. -/
theorem bytesToBitsIsMsbFirst : Obligations.BytesToBitsIsMsbFirst :=
  fun bytes => ⟨length_bytesToBits bytes, fun j i _ => getD_bytesToBits bytes j i⟩

/-! ## Bits packed back into bytes (R66) -/

/-- Packing a byte's 8 serialised bits gives the byte back. -/
theorem orBits_getLsbD_msb (v : Byte) : orBits msbIndex (fun i => v.getLsbD (7 - i.val)) = v := by
  refine BitVec.eq_of_getLsbD_eq fun k hk => ?_
  have hbit := getLsbD_orBits_msb (fun i => v.getLsbD (7 - i.val)) ⟨7 - k, by omega⟩
  have hk' : 7 - (7 - k) = k := by omega
  simpa only [hk'] using hbit

theorem packBits_byteBits_append (v : Byte) (rest : RawBits) :
    packBits (byteBits v ++ rest) = v :: packBits rest := by
  have hpack : packBits (byteBits v ++ rest) =
      orBits msbIndex (fun i => (byteBits v).getD i.val false) :: packBits rest := rfl
  simp only [hpack, getD_byteBits, orBits_getLsbD_msb]

/-- A serialised byte string reads back as itself. -/
theorem packBits_bytesToBits (bytes : List Byte) : packBits (bytesToBits bytes) = bytes := by
  induction bytes with
  | nil => rfl
  | cons v rest ih => rw [bytesToBits_cons, packBits_byteBits_append, ih]

/-! ## The command `RAS` (R85) -/

theorem exec_ras (raw : List Byte) (s : State) :
    exec (.ras raw) s = .next (s.record (okBits (bytesToBits raw))) := rfl

theorem toBytes_okBits_bytesToBits (raw : List Byte) : (okBits (bytesToBits raw)).toBytes = 0x00#8 :: raw :=
  congrArg (0x00#8 :: ·) (packBits_bytesToBits raw)

/-- In format V a length byte announces up to 255 bytes rightly (R65). -/
theorem decodeCommand_formatV_announced {o : Opcode} {raw : List Byte} (ho : o.format = .V) (h : raw.length ≤ 255) :
    decodeCommand (o.byte :: BitVec.ofNat 8 raw.length :: raw) =
      .cmd (o.build (BitVec.ofNat 8 raw.length :: raw)) := by
  refine decodeCommand_formatV_fields ho ?_
  rw [BitVec.toNat_ofNat]
  omega

theorem decodeCommand_ras {raw : List Byte} (h : raw.length ≤ 255) :
    decodeCommand (0x31#8 :: BitVec.ofNat 8 raw.length :: raw) = .cmd (.ras raw) :=
  decodeCommand_formatV_announced (o := .ras) rfl h

/-- Settles O11: `RAS` records the serialised bytes, whose bits and whose reading as bytes the laws above give. -/
theorem rasReturnsEveryBit : Obligations.RasReturnsEveryBit :=
  ⟨fun raw s => ⟨bytesToBits raw, length_bytesToBits raw, fun j i _ => getD_bytesToBits raw j i,
    ⟨_, exec_ras raw s, rfl⟩, toBytes_okBits_bytesToBits raw⟩, fun _ => decodeCommand_ras⟩

/-! ## Fitting to 64 bits (R81) -/

/-- Entry `k` of the fitted sequence as a list is entry `k` of the sequence. -/
theorem getD_toList_fit64 (S : RawBits) {k : Nat} (hk : k < 64) : (fit64 S).toList.getD k false = S.getD k false := by
  simp [fit64, hk]

/-- `fromBits` reads the first 64 entries and no others, so fitting first changes nothing. -/
theorem fromBits_toList_fit64 (S : RawBits) : fromBits (fit64 S).toList = fromBits S := by
  refine PixelMatrix.eq_of_cells fun r c => ?_
  rw [cell_fromBits, cell_fromBits, getD_toList_fit64 S (by omega)]

/-- Settles O29: each entry by whether the sequence has one there, the matrix by its cells. -/
theorem fitPadsOrCutsToSixtyFour : Obligations.FitPadsOrCutsToSixtyFour := by
  refine fun S => ⟨fun k => ?_, (fromBits_toList_fit64 S).symm⟩
  rw [get_fit64]
  split
  case isTrue h => exact List.getD_eq_getElem S false h
  case isFalse h => exact List.getD_eq_default S false (Nat.le_of_not_lt h)

/-! ## Upper-casing (R82) -/

/-- Is the character one of `a` to `z`? -/
def isLowerAz (c : Char) : Prop := 'a' ≤ c ∧ c ≤ 'z'

theorem isLowerAz_iff (c : Char) : isLowerAz c ↔ 97 ≤ c.toNat ∧ c.toNat ≤ 122 := Iff.rfl

theorem toNat_upperChar_of_isLowerAz {c : Char} (h : isLowerAz c) : (upperChar c).toNat + 32 = c.toNat := by
  obtain ⟨hlo, hhi⟩ := (isLowerAz_iff c).mp h
  have hvalid : (c.toNat - 32).isValidChar := .inl (by omega)
  rw [upperChar, if_pos ⟨hlo, hhi⟩, Char.toNat_ofNat, if_pos hvalid]
  omega

theorem upperChar_of_not_isLowerAz {c : Char} (h : ¬isLowerAz c) : upperChar c = c :=
  if_neg h

/-- No upper-cased character is a letter `a` to `z`: 32 below such a letter is below `a`. -/
theorem not_isLowerAz_upperChar (c : Char) : ¬isLowerAz (upperChar c) := by
  by_cases h : isLowerAz c
  · have hup := toNat_upperChar_of_isLowerAz h
    rw [isLowerAz_iff] at h ⊢
    omega
  · rwa [upperChar_of_not_isLowerAz h]

@[simp] theorem upperChar_upperChar (c : Char) : upperChar (upperChar c) = upperChar c :=
  upperChar_of_not_isLowerAz (not_isLowerAz_upperChar c)

theorem upper_upper (t : Text) : upper (upper t) = upper t := by simp [upper]

@[simp] theorem length_upper (t : Text) : (upper t).length = t.length := List.length_map _

/-- Settles O44: character by character, split on whether it is a letter `a` to `z`. -/
theorem upperIsAsciiOnly : Obligations.UpperIsAsciiOnly :=
  ⟨fun t => ⟨upper_upper t, length_upper t⟩,
    fun _ => ⟨toNat_upperChar_of_isLowerAz, upperChar_of_not_isLowerAz⟩⟩

end Sys2Proof.Machine
end

section
/-! SUPPORT. The matrix codec's operations (41_matrix_codec.md R90 to R96), one reasoning rule each; then the statements
about `toBits`, `fromBits` and the commands `CLR`, `TGL`, `SER`, `DES`. -/

namespace Sys2Proof.Machine

/-! ## Matrices, bit sequences and row bytes (R90, R91, R54) -/

/-- Index `8r+c` names row `r` and column `c`. -/
theorem get_toBits_of_val_eq (X : PixelMatrix) {r c : Fin 8} {k : Fin 64} (h : k.val = r.val * 8 + c.val) :
    (toBits X).get k = X.cell r c := by
  have hrow : bitRow k = r := Fin.ext (by simp [bitRow]; omega)
  have hcol : bitCol k = c := Fin.ext (by simp [bitCol]; omega)
  rw [get_toBits, hrow, hcol]

/-- Cell `(r, c)` of `fromBits` is entry `8r+c` of the fitted sequence (R81, R91). -/
theorem cell_fromBits_eq_get_fit64 (S : RawBits) (r c : Fin 8) :
    (fromBits S).cell r c = (fit64 S).get ⟨r.val * 8 + c.val, by omega⟩ := by
  rw [cell_fromBits, get_fit64]

/-- Settles O30: an index is split into its row and column, and a cell is an entry of the fitted sequence, which R81
gives. -/
theorem codecIsRowMajor : Obligations.CodecIsRowMajor :=
  ⟨fun X _ _ _ => get_toBits_of_val_eq X,
    fun S r c => (cell_fromBits_eq_get_fit64 S r c).trans ((fitPadsOrCutsToSixtyFour S).1 _)⟩

/-- Bit `7-c` of byte `j` of the packed bit view is cell `(j, c)`. -/
theorem getLsbD_getD_pack64_toBits (X : PixelMatrix) (j c : Fin 8) :
    ((pack64 (toBits X)).getD j.val 0#8).getLsbD (7 - c.val) = X.cell j c := by
  rw [getD_pack64, getLsbD_packRow]
  exact get_toBits_of_val_eq X (by simp [Nat.mul_comm])

/-- Row `r` of the matrix of a byte string is byte `r`, most significant bit first. -/
theorem cell_fromBits_bytesToBits (bytes : List Byte) (r c : Fin 8) :
    (fromBits (bytesToBits bytes)).cell r c = (bytes.getD r.val 0#8).getLsbD (7 - c.val) := by
  rw [cell_fromBits, Nat.mul_comm, getD_bytesToBits]

/-! ## A plane byte is fixed by its own column (R110, R111) -/

theorem columnByte_of_unlit {X : PixelMatrix} {c : Fin 8} (h : ∀ r, X.cell r c = false) : columnByte X c = 0xFF#8 :=
  if_neg fun hact => by
    obtain ⟨r, hr⟩ := (active_iff X c).mp hact
    exact absurd hr (by simp [h r])

theorem columnByte_of_lit {X : PixelMatrix} {r c : Fin 8} (h : X.cell r c = true) :
    columnByte X c = ~~~(1#8 <<< c.val) :=
  if_pos ((active_iff X c).mpr ⟨r, h⟩)

theorem planeRead_congr {X Y : PixelMatrix} {c : Fin 8} (h : ∀ r, X.cell r c = Y.cell r c) (p : PlaneId) :
    planeRead p c X = planeRead p c Y := by
  cases p with
  | columns => simp [columnByte, active, h]
  | rows => simp [rowByte, h]

theorem planeRead_blank (p : PlaneId) (c : Fin 8) : planeRead p c State.blank = 0xFF#8 := by
  cases p with
  | columns => exact (planeRead_columns _ c).trans (columnByte_of_unlit fun r => cell_blank r c)
  | rows =>
    have hbyte : orBits rowBitIndex (fun _ => true) = 0xFF#8 := by decide
    simp [rowByte, hbyte]

/-! ## The toggle (R94) -/

theorem cell_toggleCell_same (X : PixelMatrix) (r c : Fin 8) : (toggleCell X r c).cell r c = !X.cell r c := by
  simp [cell_toggleCell]

theorem cell_toggleCell_other (X : PixelMatrix) {r c r' c' : Fin 8} (h : ¬(r' = r ∧ c' = c)) :
    (toggleCell X r c).cell r' c' = X.cell r' c' := by
  rw [cell_toggleCell, if_neg h]

theorem toggleCell_toggleCell (X : PixelMatrix) (r c : Fin 8) : toggleCell (toggleCell X r c) r c = X := by
  refine PixelMatrix.eq_of_cells fun r' c' => ?_
  by_cases h : r' = r ∧ c' = c
  · obtain ⟨rfl, rfl⟩ := h
    rw [cell_toggleCell_same, cell_toggleCell_same, Bool.not_not]
  · rw [cell_toggleCell_other _ h, cell_toggleCell_other _ h]

/-- A toggled cell of an empty column is the one that makes the column active. -/
theorem columnByte_toggleCell_of_unlit {X : PixelMatrix} {c : Fin 8} (h : ∀ r, X.cell r c = false) (r : Fin 8) :
    columnByte (toggleCell X r c) c = ~~~(1#8 <<< c.val) :=
  columnByte_of_lit (r := r) (by rw [cell_toggleCell_same, h, Bool.not_false])

theorem planeRead_toggleCell_other (X : PixelMatrix) (r : Fin 8) {c c' : Fin 8} (h : c' ≠ c) (p : PlaneId) :
    planeRead p c' (toggleCell X r c) = planeRead p c' X :=
  planeRead_congr (fun _ => cell_toggleCell_other X fun ⟨_, heq⟩ => h heq) p

/-! ## The commands (R93 to R96) -/

theorem exec_clr (s : State) : exec .clr s = .next ((s.withMatrix State.blank).record (okBytes [])) := rfl

theorem exec_tgl (r c : Fin 8) (s : State) :
    exec (.tgl r c) s = .next ((s.withMatrix (toggleCell s.m r c)).record (okBytes [])) := rfl

theorem exec_ser (s : State) : exec .ser s = .next (s.record (okBytes (pack64 (toBits s.m)))) := rfl

theorem exec_des (imm : Vector Byte 8) (s : State) :
    exec (.des imm) s = .next ((s.withMatrix (fromBits (bytesToBits imm.toList))).record (okBytes [])) := rfl

/-- The next state of a command that writes `M` and answers `r` differs in `M` and the record only. -/
theorem answeredBy_withMatrix_record (r : Response) (s : State) (X : PixelMatrix) :
    AnsweredBy r s ((s.withMatrix X).record r) := rfl

/-- Settles O3: the next state holds the blank matrix, whose cells and plane bytes the laws above give. -/
theorem clrUnlightsEveryCell : Obligations.ClrUnlightsEveryCell :=
  fun s => ⟨rfl, _, exec_clr s, answeredBy_withMatrix_record _ s _, cell_blank, rfl,
    fun k => (get_toBits State.blank k).trans (cell_blank _ _), planeRead_blank⟩

/-- The operand byte of `TGL r, c` (R63). -/
theorem decodeCommand_tgl_operand (r c : Fin 8) :
    decodeCommand [0x02#8, BitVec.ofNat 8 (r.val * 8 + c.val)] = .cmd (.tgl r c) := by
  refine decodeCommand_tgl ?_
  rw [BitVec.toNat_ofNat]
  omega

/-- Settles O4: the next state holds the toggled matrix; its cells, its plane bytes and a second toggle are the laws
above. -/
theorem tglComplementsOneCell : Obligations.TglComplementsOneCell := by
  refine fun r c s => ⟨decodeCommand_tgl_operand r c, ⟨_, exec_tgl r c s, answeredBy_withMatrix_record _ s _,
    cell_toggleCell_same s.m r c, fun _ _ => cell_toggleCell_other s.m, ?otherColumns, ?emptyAfter, ?emptyBefore,
    ?twice⟩, ?operandError⟩
  case otherColumns => exact fun p c' hne => planeRead_toggleCell_other s.m r hne p
  case emptyAfter => exact fun hafter => (planeRead_columns _ c).trans (columnByte_of_unlit hafter)
  case emptyBefore => exact fun hbefore => (planeRead_columns _ c).trans (columnByte_toggleCell_of_unlit hbefore r)
  case twice => exact ⟨_, exec_tgl r c _, toggleCell_toggleCell s.m r c⟩
  case operandError => exact fun b hbit hrun => present_err hrun (decodeCommand_tgl_high_bit hbit)

/-- Settles O5: the payload is the packed bit view, and the second `SER` finds the same matrix. -/
theorem serReturnsTheRowBytes : Obligations.SerReturnsTheRowBytes :=
  fun s => ⟨rfl, pack64 (toBits s.m), length_pack64 _, getLsbD_getD_pack64_toBits s.m, _, exec_ser s, rfl, exec_ser _⟩

/-- Format Q asks for 8 operand bytes. -/
theorem decodeCommand_des_length {args : List Byte} (h : args.length ≠ 8) :
    decodeCommand (0x11#8 :: args) = .err .length :=
  decodeCommand_wrong_length (o := .des) fun hlen => h (Option.some.inj hlen).symm

/-- Settles O6: the next state holds the matrix of the operand bytes, read row by row. -/
theorem desLoadsTheImmediate : Obligations.DesLoadsTheImmediate := by
  refine ⟨fun imm s => ⟨decodeCommand_des imm, _, exec_des imm s, answeredBy_withMatrix_record _ s _, fun j c => ?_⟩,
    fun _ => decodeCommand_des_length⟩
  have himm : imm.toList.getD j.val 0#8 = imm.get j := by simp [Vector.get_eq_getElem]
  rw [← himm]
  exact cell_fromBits_bytesToBits imm.toList j c

end Sys2Proof.Machine
end

section
/-! SUPPORT. The EPROM encoder's operations (42_eprom_encoder.md R110 to R117), one reasoning rule each; then the
statements about `encode` and the commands `ENC`, `RDC`, `RDR`. -/

namespace Sys2Proof.Machine

/-! ## The arithmetic of a plane byte (R110, R111) -/

/-- The complement of one bit's weight is what is left of 255 (R111). -/
theorem not_one_shiftLeft_eq (c : Fin 8) : ~~~(1#8 <<< c.val) = BitVec.ofNat 8 (255 - 2 ^ c.val) := by
  revert c
  decide

/-- A number given by its bits, lowest first, is the sum of the weights of the set ones. -/
theorem ofBits_eq_sum {n : Nat} (f : Fin n → Bool) : Nat.ofBits f = ∑ i, if f i then 2 ^ i.val else 0 := by
  induction n with
  | zero => rfl
  | succ n ih =>
    have hdouble : ∀ i : Fin n, 2 * (if f i.succ then 2 ^ i.val else 0) = if f i.succ then 2 ^ (i.val + 1) else 0 :=
      fun i => by rw [mul_ite, mul_zero, pow_succ']
    have hlow : (f 0).toNat = if f 0 then 2 ^ 0 else 0 := by cases f 0 <;> rfl
    rw [Nat.ofBits_succ, ih, Finset.mul_sum, Fin.sum_univ_succ, add_comm, hlow]
    exact congrArg _ (Finset.sum_congr rfl fun i _ => hdouble i)

/-- A byte is the sum of the weights of its set bits. -/
theorem toNat_eq_sum_getLsbD (v : Byte) : v.toNat = ∑ r : Fin 8, if v.getLsbD r.val then 2 ^ r.val else 0 :=
  calc v.toNat = v.toNat % 2 ^ 8 := (Nat.mod_eq_of_lt v.isLt).symm
    _ = Nat.ofBits fun r : Fin 8 => v.getLsbD r.val := (Nat.ofBits_testBit v.toNat 8).symm
    _ = _ := ofBits_eq_sum _

/-- A row byte is the sum of the weights of its column's unlit rows. -/
theorem toNat_rowByte (X : PixelMatrix) (c : Fin 8) :
    (rowByte X c).toNat = ∑ r : Fin 8, if X.cell r c then 0 else 2 ^ r.val := by
  rw [toNat_eq_sum_getLsbD]
  refine Finset.sum_congr rfl fun r _ => ?_
  rw [getLsbD_rowByte]
  cases X.cell r c <;> rfl

theorem columnByte_eq (X : PixelMatrix) (c : Fin 8) :
    columnByte X c = if active X c then BitVec.ofNat 8 (255 - 2 ^ c.val) else 0xFF#8 := by
  rw [columnByte, not_one_shiftLeft_eq]

/-- Settles O32: activity, the column byte and the row byte are the three laws of R110's steps. -/
theorem encodeFollowsItsThreeSteps : Obligations.EncodeFollowsItsThreeSteps :=
  fun X c => ⟨active_iff X c, (get_columnPlane X c).trans (columnByte_eq X c),
    (congrArg BitVec.toNat (get_rowPlane X c)).trans (toNat_rowByte X c)⟩

/-! ## Two planes as sixteen bytes, the column plane first (R115) -/

/-- Bytes 0 to 7 are the first plane. -/
theorem getD_toList_append_left (cp rp : Plane) (c : Fin 8) : (cp.toList ++ rp.toList).getD c.val 0#8 = cp.get c := by
  rw [List.getD_append _ _ _ _ (by simp)]
  simp [Vector.get_eq_getElem]

/-- Bytes 8 to 15 are the second plane. -/
theorem getD_toList_append_right (cp rp : Plane) (c : Fin 8) :
    (cp.toList ++ rp.toList).getD (8 + c.val) 0#8 = rp.get c := by
  rw [List.getD_append_right _ _ _ _ (by simp)]
  simp [Vector.get_eq_getElem]

/-! ## The commands (R115 to R117) -/

theorem exec_enc (s : State) :
    exec .enc s = .next (s.record (okBytes ((columnPlane s.m).toList ++ (rowPlane s.m).toList))) := rfl

theorem exec_rdc (c : Fin 8) (s : State) : exec (.rdc c) s = .next (s.record (okBytes [columnByte s.m c])) :=
  congrArg (fun b => Host.Outcome.next (s.record (okBytes [b]))) (planeRead_columns s.m c)

theorem exec_rdr (c : Fin 8) (s : State) : exec (.rdr c) s = .next (s.record (okBytes [rowByte s.m c])) :=
  congrArg (fun b => Host.Outcome.next (s.record (okBytes [b]))) (planeRead_rows s.m c)

/-- Settles O7: the payload's halves are the two planes, and the second `ENC` finds the same matrix. -/
theorem encReturnsBothPlanes : Obligations.EncReturnsBothPlanes := by
  refine fun s => ⟨rfl, (columnPlane s.m).toList ++ (rowPlane s.m).toList, by simp,
    fun c => ⟨?lit, ?unlit, ?rows⟩, _, exec_enc s, rfl, exec_enc _⟩
  case lit =>
    rintro ⟨r, hr⟩
    rw [getD_toList_append_left, get_columnPlane, columnByte_of_lit hr]
  case unlit =>
    intro hunlit
    rw [getD_toList_append_left, get_columnPlane, columnByte_of_unlit hunlit]
  case rows =>
    intro r
    rw [getD_toList_append_right, get_rowPlane, getLsbD_rowByte]

/-- The operand byte of `RDC c` and `RDR c` holds the column (R63). -/
theorem toNat_ofNat_column (c : Fin 8) : (BitVec.ofNat 8 c.val).toNat = c.val := by
  rw [BitVec.toNat_ofNat]
  omega

/-- A format C command whose operand byte names no column answers ERR_OPERAND and changes nothing else (R68). -/
theorem present_formatC_reserved {o : Opcode} {b : Byte} {s : State} (ho : o.format = .C) (hb : 8 ≤ b.toNat)
    (hrun : s.power = .running) : present [o.byte, b] s = .next (s.record (errorResponse .errOperand)) :=
  present_err hrun (decodeCommand_formatC_reserved ho hb)

/-- Settles O8: the byte answered is the column byte, split on whether the column has a lit cell. -/
theorem rdcReturnsTheColumnByte : Obligations.RdcReturnsTheColumnByte :=
  fun c s => ⟨decodeCommand_rdc (toNat_ofNat_column c),
    ⟨_, _, exec_rdc c s, rfl, fun ⟨_, hr⟩ => columnByte_of_lit hr, columnByte_of_unlit⟩,
    fun _ => present_formatC_reserved (o := .rdc) rfl⟩

/-- Settles O9: the byte answered is the row byte, whose bits are the column's unlit cells. -/
theorem rdrReturnsTheRowByte : Obligations.RdrReturnsTheRowByte :=
  fun c s => ⟨decodeCommand_rdr (toNat_ofNat_column c),
    ⟨_, _, exec_rdr c s, rfl, fun r => getLsbD_rowByte s.m r c⟩,
    fun _ => present_formatC_reserved (o := .rdr) rfl⟩

end Sys2Proof.Machine
end

section
/-! SUPPORT. The validation gate (43_validation_gate.md R131 to R133): its verdict on a text, and what a text edit does with
it, one reasoning rule per case; then the statement about them. -/

namespace Sys2Proof.Machine

/-! ## The verdict (R131) -/

/-- `[A-Z0-9 ]` as character ranges (R130, R131). -/
def inCharset (c : Char) : Prop := ('A' ≤ c ∧ c ≤ 'Z') ∨ ('0' ≤ c ∧ c ≤ '9') ∨ c = ' '

theorem admitted_iff (c : Char) : admitted c = true ↔ inCharset c := by
  have hupper : (65 ≤ c.toNat ∧ c.toNat ≤ 90) ↔ ('A' ≤ c ∧ c ≤ 'Z') := Iff.rfl
  have hdigit : (48 ≤ c.toNat ∧ c.toNat ≤ 57) ↔ ('0' ≤ c ∧ c ≤ '9') := Iff.rfl
  simp [admitted, inCharset, hupper, hdigit, or_assoc]

theorem all_admitted_iff (u : Text) : u.all admitted = true ↔ ∀ c ∈ u, inCharset c := by
  simp only [List.all_eq_true, admitted_iff]

section
variable {t : Text}

/-- The first check decides, whatever the length. -/
theorem validate_of_outside (h : ¬∀ c ∈ upper t, inCharset c) : validate t = some .invalidCharset :=
  if_neg (mt (all_admitted_iff _).mp h)

/-- After the first check the length decides. -/
theorem validate_of_inCharset (h : ∀ c ∈ upper t, inCharset c) :
    validate t = if 20 < t.length then some .tooLong else none :=
  if_pos ((all_admitted_iff _).mpr h)

end

theorem validate_eq_invalidCharset_iff (t : Text) :
    validate t = some .invalidCharset ↔ ∃ c ∈ upper t, ¬inCharset c := by
  by_cases h : ∀ c ∈ upper t, inCharset c
  · rw [validate_of_inCharset h]
    split <;> simpa using h
  · simpa [validate_of_outside h] using h

theorem validate_eq_tooLong_iff (t : Text) :
    validate t = some .tooLong ↔ (∀ c ∈ upper t, inCharset c) ∧ 20 < t.length := by
  by_cases h : ∀ c ∈ upper t, inCharset c
  · rw [validate_of_inCharset h, and_iff_right h]
    simp
  · simp [validate_of_outside h, h]

theorem validate_eq_none_iff (t : Text) :
    validate t = none ↔ (∀ c ∈ upper t, inCharset c) ∧ t.length ≤ 20 := by
  by_cases h : ∀ c ∈ upper t, inCharset c
  · rw [validate_of_inCharset h, and_iff_right h]
    simp
  · simp [validate_of_outside h, h]

/-! ## The command of an accepted text (R71, R84) -/

@[simp] theorem length_textBytes (t : Text) : (textBytes t).length = t.length := by simp [textBytes]

theorem exec_dec (raw : List Byte) (s : State) :
    exec (.dec raw) s = .next ((s.withMatrix (decodeMatrix raw)).record (okBytes [])) := rfl

theorem decodeCommand_dec {raw : List Byte} (h : raw.length ≤ 255) :
    decodeCommand (0x30#8 :: BitVec.ofNat 8 raw.length :: raw) = .cmd (.dec raw) :=
  decodeCommand_formatV_announced (o := .dec) rfl h

/-- A validated text fits into one `DEC`, which a running block performs. -/
theorem issueText_of_validate {t : Text} {s : State} (hv : validate t = none) (hrun : s.power = .running) :
    issueText t s = .next ((s.withMatrix (decodeMatrix (textBytes t))).record (okBytes [])) := by
  obtain ⟨-, hlen⟩ := (validate_eq_none_iff t).mp hv
  have hfits : (textBytes t).length ≤ 255 := by rw [length_textBytes]; omega
  exact (present_cmd hrun (decodeCommand_dec hfits)).trans (exec_dec _ s)

/-! ## A text edit, by verdict and mode (R132, R133, R164) -/

section
variable {t : Text} {s : State}

theorem textEdit_of_rejected {r : Rejection} (hv : validate t = some r) :
    textEdit t s = .next ((s.withRejection (some r)).record (errorResponse (rejectionCode r))) :=
  runGate_some hv _ s

theorem textEdit_of_accepted_draw (hv : validate t = none) (hmode : s.mode = .draw) :
    textEdit t s = .next ((s.withRejection none).withText t) :=
  (runGate_none hv _ s).trans (inMode_ne (by simp [hmode]))

theorem textEdit_of_accepted_text (hv : validate t = none) (hmode : s.mode = .text) (hrun : s.power = .running) :
    textEdit t s = .next
      ((((s.withRejection none).withText t).withMatrix (decodeMatrix (textBytes t))).record (okBytes [])) :=
  calc textEdit t s = inMode .text (issueText t) ((s.withRejection none).withText t) := runGate_none hv _ s
    _ = issueText t ((s.withRejection none).withText t) := inMode_eq (by simpa using hmode)
    _ = _ := issueText_of_validate hv (by simpa using hrun)

/-- A text edit before a running block answers, and leaves the verdict as the rejection state. -/
theorem textEdit_rejection (hrun : s.power = .running) : ∃ u, textEdit t s = .next u ∧ u.rejection = validate t := by
  cases hv : validate t with
  | some r => exact ⟨_, textEdit_of_rejected hv, rfl⟩
  | none =>
    cases hmode : s.mode with
    | draw => exact ⟨_, textEdit_of_accepted_draw hv hmode, rfl⟩
    | text => exact ⟨_, textEdit_of_accepted_text hv hmode hrun, rfl⟩

end

/-- Settles O43: the step performs the text edit, and the three verdicts are the laws above. -/
theorem gateVerdicts : Obligations.GateVerdicts := by
  refine ⟨rfl, rfl, rfl, rfl, fun s rest t hinputs hrun => ?edit, fun t => ⟨?charset, ?long, ?accepted⟩⟩
  case edit =>
    rw [step_input hinputs]
    exact textEdit_rejection (s := s.withInputs rest) hrun
  case charset => exact validate_eq_invalidCharset_iff t
  case long => exact validate_eq_tooLong_iff t
  case accepted => exact validate_eq_none_iff t

end Sys2Proof.Machine
end

section
/-! SUPPORT. The EPROM decoder and the plane demultiplexer (44_eprom_decoder.md R140 to R148), one reasoning rule each;
then the statements about `decodeMatrix`, `display` and the commands `DEC`, `DMX`. -/

namespace Sys2Proof.Machine

/-! ## The matrix of a raw buffer (R140) -/

/-- `fromBits` reads no entry from 64 on, so cutting there changes nothing (R91). -/
theorem fromBits_take_nbits (S : RawBits) : fromBits (S.take Config.nbits) = fromBits S := by
  refine PixelMatrix.eq_of_cells fun r c => ?_
  have hidx : r.val * 8 + c.val < Config.nbits := by
    simp only [Config.nbits]
    omega
  simp only [cell_fromBits, List.getD_eq_getElem?_getD, List.getElem?_take_of_lt hidx]

/-- Row `r` is byte `r`, most significant bit first; a missing byte reads 0. -/
theorem cell_decodeMatrix (raw : List Byte) (r c : Fin 8) :
    (decodeMatrix raw).cell r c = (raw.getD r.val 0#8).getLsbD (7 - c.val) := by
  have hrow : r.val < Config.importLen := by
    simp only [Config.importLen]
    omega
  rw [decodeMatrix, fromBits_take_nbits, cell_fromBits_bytesToBits, List.getD_eq_getElem?_getD,
    List.getElem?_take_of_lt hrow, ← List.getD_eq_getElem?_getD]

theorem cell_decodeMatrix_of_lt {raw : List Byte} {r : Fin 8} (h : r.val < raw.length) (c : Fin 8) :
    (decodeMatrix raw).cell r c = (raw[r.val]).getLsbD (7 - c.val) := by
  rw [cell_decodeMatrix, List.getD_eq_getElem _ _ h]

theorem cell_decodeMatrix_of_missing {raw : List Byte} {r : Fin 8} (h : ¬r.val < raw.length) (c : Fin 8) :
    (decodeMatrix raw).cell r c = false := by
  rw [cell_decodeMatrix, List.getD_eq_default _ _ (Nat.le_of_not_lt h), BitVec.getLsbD_zero]

/-- Settles O35: R140's two cuts are the definition's, and a cell is read by whether its row has a byte. -/
theorem decodeMatrixReadsRowBytes : Obligations.DecodeMatrixReadsRowBytes := by
  refine fun raw => ⟨rfl, fun r c => ?_⟩
  split
  case isTrue h => exact cell_decodeMatrix_of_lt h c
  case isFalse h => exact cell_decodeMatrix_of_missing h c

/-! ## The command `DEC` (R143) -/

/-- Settles O10: the next state holds the decoded matrix; a length byte that does not count the bytes after it, or is
missing, fails the decoder's length check. -/
theorem decLoadsTheBuffer : Obligations.DecLoadsTheBuffer := by
  refine ⟨fun raw s => ⟨_, exec_dec raw s, answeredBy_withMatrix_record _ s _, fun r c => ?cells⟩,
    fun _ => decodeCommand_dec, fun n raw s hlen hrun => ?announced, fun s hrun => ?noLengthByte⟩
  case cells =>
    split
    case isTrue => exact cell_decodeMatrix raw r c
    case isFalse h => exact cell_decodeMatrix_of_missing h c
  case announced => exact present_err hrun (decodeCommand_formatV_length (o := .dec) rfl hlen)
  case noLengthByte => exact present_err hrun (decodeCommand_no_length_byte (group := [.dec]) (by decide) (by decide))

/-! ## The picture of a plane pair (R145, R147) -/

/-- The idle byte enables no column driver (R111). -/
theorem getLsbD_idle (k : Fin 8) : (0xFF#8 : Byte).getLsbD k.val = true := by
  revert k
  decide

/-- The byte of an active column enables that column's driver alone (R111). -/
theorem getLsbD_not_one_shiftLeft (c k : Fin 8) :
    (~~~(1#8 <<< c.val)).getLsbD k.val = false ↔ k = c := by
  revert c k
  decide

/-- A column byte made by `encode` enables driver `k` exactly when it is the byte of column `k` and a cell there is
lit. -/
theorem getLsbD_columnByte_iff (X : PixelMatrix) (c k : Fin 8) :
    (columnByte X c).getLsbD k.val = false ↔ k = c ∧ ∃ r, X.cell r c = true := by
  by_cases hlit : ∃ r, X.cell r c = true
  · obtain ⟨r, hr⟩ := hlit
    rw [columnByte_of_lit hr, getLsbD_not_one_shiftLeft, and_iff_left ⟨r, hr⟩]
  · have hunlit : ∀ r, X.cell r c = false := by simpa using hlit
    rw [columnByte_of_unlit hunlit, getLsbD_idle]
    simp [hlit]

/-- The only scan position that can light a pixel of column `k` is `k` (R147). -/
theorem display_encodePlanes (X : PixelMatrix) : display (encodePlanes X).1 (encodePlanes X).2 = X := by
  refine PixelMatrix.eq_of_cells fun r k => Bool.eq_iff_iff.mpr ?_
  calc (display (columnPlane X) (rowPlane X)).cell r k = true
      ↔ ∃ pos, (k = pos ∧ ∃ r', X.cell r' pos = true) ∧ X.cell r pos = true := by
        simp only [cell_display_iff, get_columnPlane, get_rowPlane, getLsbD_columnByte_iff, getLsbD_rowByte,
          Bool.not_eq_false']
    _ ↔ X.cell r k = true :=
        ⟨fun ⟨_, ⟨hk, _⟩, hr⟩ => hk ▸ hr, fun hr => ⟨k, ⟨rfl, r, hr⟩, hr⟩⟩

/-- The two inversions of a row byte's bits cancel (R110, R145). -/
theorem rowsToMatrix_encodePlanes (X : PixelMatrix) : rowsToMatrix (encodePlanes X).2 = X := by
  refine PixelMatrix.eq_of_cells fun r c => ?_
  calc (rowsToMatrix (rowPlane X)).cell r c
      = !(rowByte X c).getLsbD r.val := by rw [cell_rowsToMatrix, get_rowPlane]
    _ = X.cell r c := by rw [getLsbD_rowByte, Bool.not_not]

/-- Row planes that agree wherever the column byte enables a driver display one picture. -/
theorem display_congr {cp rp rp' : Plane} (h : ∀ pos, cp.get pos ≠ 0xFF#8 → rp'.get pos = rp.get pos) :
    display cp rp' = display cp rp := by
  refine PixelMatrix.eq_of_cells fun r k => Bool.eq_iff_iff.mpr ?_
  rw [cell_display_iff, cell_display_iff]
  refine exists_congr fun pos => and_congr_right fun henabled => ?_
  have hactive : cp.get pos ≠ 0xFF#8 := fun hidle => by
    rw [hidle, getLsbD_idle] at henabled
    exact Bool.noConfusion henabled
  rw [h pos hactive]

/-- Idle column bytes throughout: nothing is lit, whatever the row plane. -/
theorem cell_display_idle (rp : Plane) (r k : Fin 8) : (display (Vector.replicate 8 0xFF#8) rp).cell r k = false := by
  refine Bool.eq_false_iff.mpr fun hlit => ?_
  obtain ⟨pos, hcol, -⟩ := (cell_display_iff _ _ r k).mp hlit
  have hidle : (Vector.replicate 8 0xFF#8 : Plane).get pos = 0xFF#8 := by simp [Vector.get_eq_getElem]
  rw [hidle, getLsbD_idle] at hcol
  exact Bool.noConfusion hcol

/-- Row bytes 0 light every cell of `rowsToMatrix` (R145). -/
theorem cell_rowsToMatrix_zero (r c : Fin 8) : (rowsToMatrix (Vector.replicate 8 0x00#8)).cell r c = true := by
  simp [cell_rowsToMatrix, Vector.get_eq_getElem]

/-- Settles O37: on encoded pairs both decoders give the matrix back; the pair of idle column bytes and row bytes 0
separates them. -/
theorem displayInvertsEncode : Obligations.DisplayInvertsEncode := by
  refine ⟨cell_display_iff, fun X => ⟨display_encodePlanes X, ?agree⟩, fun cp rp rp' pos hidle hrows => ?blanked,
    fun heq => ?differ⟩
  case agree => rw [display_encodePlanes, rowsToMatrix_encodePlanes]
  case blanked => exact display_congr fun k hk => hrows k fun hpos => hk (hpos ▸ hidle)
  case differ =>
    have hcell := congrArg (fun X => X.cell 0 0) heq
    simp only [cell_display_idle, cell_rowsToMatrix_zero] at hcell
    exact Bool.noConfusion hcell

/-! ## The command `DMX` (R148) -/

theorem exec_dmx (cp rp : Plane) (s : State) :
    exec (.dmx cp rp) s = .next ((s.withMatrix (display cp rp)).record (okBytes [])) := rfl

/-- Format P asks for 16 operand bytes. -/
theorem decodeCommand_dmx_length {args : List Byte} (h : args.length ≠ 16) :
    decodeCommand (0x32#8 :: args) = .err .length :=
  decodeCommand_wrong_length (o := .dmx) fun hlen => h (Option.some.inj hlen).symm

/-- Settles O12: the next state holds the displayed picture, which for an encoder-made pair is the encoded matrix. -/
theorem dmxLoadsTheDisplayedPicture : Obligations.DmxLoadsTheDisplayedPicture :=
  ⟨fun cp rp s => ⟨decodeCommand_dmx cp rp, _, exec_dmx cp rp s, answeredBy_withMatrix_record _ s _,
      cell_display_iff cp rp⟩,
    fun X s => ⟨_, exec_dmx _ _ s, display_encodePlanes X⟩, fun _ => decodeCommand_dmx_length⟩

end Sys2Proof.Machine
end

section
/-! SUPPORT. Outcomes of a command string (60_exceptions.md R172, R176): what the step answers when the string is a command
and when it is none, one reasoning rule each; then the statements about them. -/

namespace Sys2Proof.Machine

/-! ## A performed command completes with `OK` (R172) -/

/-- Every command answers once, with `OK`; besides the record it can change `M` only. -/
theorem exec_answers_ok (i : Instr) (s : State) :
    ∃ (t : State) (r : Response), exec i s = .next t ∧ AnsweredBy r s t ∧ r.code = .ok := by
  cases i with
  | clr => exact ⟨_, _, exec_clr s, answeredBy_withMatrix_record _ s _, rfl⟩
  | tgl r c => exact ⟨_, _, exec_tgl r c s, answeredBy_withMatrix_record _ s _, rfl⟩
  | ser => exact ⟨_, _, exec_ser s, rfl, rfl⟩
  | des imm => exact ⟨_, _, exec_des imm s, answeredBy_withMatrix_record _ s _, rfl⟩
  | enc => exact ⟨_, _, exec_enc s, rfl, rfl⟩
  | rdc c => exact ⟨_, _, exec_rdc c s, rfl, rfl⟩
  | rdr c => exact ⟨_, _, exec_rdr c s, rfl, rfl⟩
  | dec raw => exact ⟨_, _, exec_dec raw s, answeredBy_withMatrix_record _ s _, rfl⟩
  | ras raw => exact ⟨_, _, exec_ras raw s, rfl, rfl⟩
  | dmx cp rp => exact ⟨_, _, exec_dmx cp rp s, answeredBy_withMatrix_record _ s _, rfl⟩

/-! ## The block's error codes (R67) -/

/-- The code of a decoder error is one of the block's three. -/
theorem errorCode_mem (e : DecodeError) : errorCode e ∈ [OutcomeCode.errOpcode, .errOperand, .errLength] := by
  cases e <;> decide

theorem errorCode_ne_ok (e : DecodeError) : errorCode e ≠ .ok := by cases e <;> decide

/-! ## The step with a command string pending -/

section
variable {s : State} {rest : List Input} {w : List Byte}

theorem step_command_cmd {i : Instr} (hinputs : s.inputs = .command w :: rest) (hrun : s.power = .running)
    (hcmd : decodeCommand w = .cmd i) : step s = exec i (s.withInputs rest) :=
  (step_input hinputs).trans (present_cmd (s := s.withInputs rest) hrun hcmd)

theorem step_command_err {e : DecodeError} (hinputs : s.inputs = .command w :: rest) (hrun : s.power = .running)
    (herr : decodeCommand w = .err e) :
    step s = .next ((s.withInputs rest).record (errorResponse (errorCode e))) :=
  (step_input hinputs).trans (present_err (s := s.withInputs rest) hrun herr)

end

/-- Settles O19: the step adds the error's response to the record and takes the action off, so every plane byte is read
from the same matrix. -/
theorem errorOutcomeChangesNothing : Obligations.ErrorOutcomeChangesNothing :=
  fun _ _ _ _ hinputs hrun herr => ⟨_, step_command_err hinputs hrun herr, rfl, rfl, fun _ _ => rfl⟩

/-- Settles O20: a string that decodes is performed and completes with `OK`; one that does not raises its error, whose
response has an empty payload. -/
theorem everyCommandAnswersExactlyOnce : Obligations.EveryCommandAnswersExactlyOnce := by
  intro s rest w hinputs hrun
  cases hdec : decodeCommand w with
  | cmd i =>
    obtain ⟨t, r, hexec, hframe, hok⟩ := exec_answers_ok i (s.withInputs rest)
    refine ⟨t, r, (step_command_cmd hinputs hrun hdec).trans hexec, hframe, ?iff, fun hne => absurd hok hne, ?code⟩
    case iff => exact iff_of_true hok ⟨i, rfl⟩
    case code => exact hok ▸ List.mem_cons_self
  | err e =>
    refine ⟨_, errorResponse (errorCode e), step_command_err hinputs hrun hdec, rfl, ?iff, fun _ => ⟨rfl, rfl⟩, ?code⟩
    case iff => exact iff_of_false (errorCode_ne_ok e) fun ⟨_, hcmd⟩ => Decoded.noConfusion hcmd
    case code => exact List.mem_cons_of_mem _ (errorCode_mem e)

end Sys2Proof.Machine
end

section
/-! SUPPORT. Determinism of runs (70_reset_and_hazards.md R204): the response and the new matrix of a command are fixed
by the old matrix and the command's bytes, in one statement for all states that hold that matrix, so that it composes along
a command list; then the statement about runs. -/

namespace Sys2Proof.Machine

/-! ## One command (R204) -/

/-- What a command answers and writes is found from the matrix alone: one response and one matrix serve every state. -/
theorem exec_depends_on_matrix (i : Instr) (X : PixelMatrix) :
    ∃ (r : Response) (Y : PixelMatrix), ∀ s : State, s.m = X → exec i s = .next ((s.record r).withMatrix Y) := by
  cases i with
  | clr => exact ⟨okBytes [], State.blank, fun s _ => exec_clr s⟩
  | tgl r c => exact ⟨okBytes [], toggleCell X r c, fun s hm => hm ▸ exec_tgl r c s⟩
  | ser => exact ⟨okBytes (pack64 (toBits X)), X, fun s hm => hm ▸ exec_ser s⟩
  | des imm => exact ⟨okBytes [], fromBits (bytesToBits imm.toList), fun s _ => exec_des imm s⟩
  | enc =>
    exact ⟨okBytes ((encodePlanes X).1.toList ++ (encodePlanes X).2.toList), X, fun s hm => hm ▸ exec_enc s⟩
  | rdc c => exact ⟨okBytes [columnByte X c], X, fun s hm => hm ▸ exec_rdc c s⟩
  | rdr c => exact ⟨okBytes [rowByte X c], X, fun s hm => hm ▸ exec_rdr c s⟩
  | dec raw => exact ⟨okBytes [], decodeMatrix raw, fun s _ => exec_dec raw s⟩
  | ras raw => exact ⟨okBits (bytesToBits raw), X, fun s hm => hm ▸ exec_ras raw s⟩
  | dmx cp rp => exact ⟨okBytes [], display cp rp, fun s _ => exec_dmx cp rp s⟩

/-- The same of any byte string given to a running block: a string that is no command keeps the matrix. -/
theorem present_depends_on_matrix (w : List Byte) (X : PixelMatrix) :
    ∃ (r : Response) (Y : PixelMatrix), ∀ s : State, s.power = .running → s.m = X →
      present w s = .next ((s.record r).withMatrix Y) := by
  cases hdec : decodeCommand w with
  | cmd i =>
    obtain ⟨r, Y, hexec⟩ := exec_depends_on_matrix i X
    exact ⟨r, Y, fun s hrun hm => (present_cmd hrun hdec).trans (hexec s hm)⟩
  | err e => exact ⟨errorResponse (errorCode e), X, fun s hrun hm => hm ▸ present_err hrun hdec⟩

/-! ## A list of commands -/

/-- A run whose first step answers goes on from the state answered. -/
theorem run_succ_of_step {s t : State} (h : step s = .next t) (k : Nat) : core.run (k + 1) s = core.run k t := by
  have hcore : core.step s = .next t := h
  simp only [Host.Core.run, hcore]

/-- The responses and the final matrix of a command list, one pair for all running states that hold the matrix `X`: the
first command fixes the matrix from which the others run. -/
theorem run_commands_depends_on_matrix (ws : List (List Byte)) (X : PixelMatrix) :
    ∃ (rs : List Response) (Y : PixelMatrix), rs.length = ws.length ∧
      ∀ s : State, s.power = .running → s.m = X → s.inputs = ws.map .command →
        core.run ws.length s = .next { s with inputs := [], m := Y, responses := s.responses ++ rs } := by
  induction ws generalizing X with
  | nil =>
    refine ⟨[], X, rfl, fun s _ hm hinputs => ?_⟩
    exact congrArg _ (State.ext_fields hm rfl rfl hinputs (List.append_nil _).symm rfl rfl rfl rfl rfl rfl)
  | cons w ws ih =>
    obtain ⟨r, Y, hpresent⟩ := present_depends_on_matrix w X
    obtain ⟨rs, Z, hlength, hrest⟩ := ih Y
    refine ⟨r :: rs, Z, congrArg (· + 1) hlength, fun s hrun hm hinputs => ?_⟩
    have hstep : step s = .next (((s.withInputs (ws.map .command)).record r).withMatrix Y) :=
      (step_input hinputs).trans (hpresent (s.withInputs (ws.map .command)) hrun hm)
    refine (run_succ_of_step hstep _).trans (Eq.trans (hrest _ hrun rfl rfl) ?_)
    simp

/-- Settles O23: both states hold one matrix, and it fixes the responses and the final matrix of the list. -/
theorem runsFromEqualMatricesAgree : Obligations.RunsFromEqualMatricesAgree := by
  intro ws s s' hrun hrun' hm hinputs hinputs'
  obtain ⟨rs, X, hlength, hruns⟩ := run_commands_depends_on_matrix ws s.m
  exact ⟨rs, X, hlength, hruns s hrun rfl hinputs, hruns s' hrun' hm.symm hinputs'⟩

end Sys2Proof.Machine
end

section
/-! SUPPORT. The two round trips of the encoding (30_encoding.md Part B): what the decoder accepts is named once, by the
format's fields, and both directions follow format by format; then the statements about command strings and steps. -/

namespace Sys2Proof

/-! ## Decode of encode (R60 to R65) -/

/-- Settles O16: one decoder law per command, at the operand bytes `encode` writes. -/
theorem decodeOfEncodeIsTheCommand : Obligations.DecodeOfEncodeIsTheCommand := by
  intro i hwf
  cases i with
  | clr => rfl
  | tgl r c => exact Machine.decodeCommand_tgl_operand r c
  | ser => rfl
  | des imm => exact decodeCommand_des imm
  | enc => rfl
  | rdc c => exact decodeCommand_rdc (Machine.toNat_ofNat_column c)
  | rdr c => exact decodeCommand_rdr (Machine.toNat_ofNat_column c)
  | dec raw => exact Machine.decodeCommand_dec (of_decide_eq_true hwf)
  | ras raw => exact Machine.decodeCommand_ras (of_decide_eq_true hwf)
  | dmx cp rp => exact decodeCommand_dmx cp rp

/-- Settles O14: each word of R70 is what `encode` writes for its command. -/
theorem assemblerExamplesDecode : Obligations.AssemblerExamplesDecode := by
  have roundTrip := decodeOfEncodeIsTheCommand
  exact ⟨roundTrip .clr rfl, roundTrip (.tgl 2 5) rfl, roundTrip .ser rfl, 
    roundTrip (.des #v[0x18#8, 0x18#8, 0x18#8, 0xFF#8, 0xFF#8, 0x18#8, 0x18#8, 0x18#8]) rfl, roundTrip .enc rfl,
    roundTrip (.rdc 3) rfl, roundTrip (.rdr 7) rfl, roundTrip (.dec [0x41#8]) rfl, roundTrip (.dec []) rfl,
    roundTrip (.ras [0x48#8, 0x49#8]) rfl,
    roundTrip (.dmx #v[0xFE#8, 0xFF#8, 0xFF#8, 0xFF#8, 0xFF#8, 0xFF#8, 0xFF#8, 0xFF#8]
      #v[0xFE#8, 0xFF#8, 0xFF#8, 0xFF#8, 0xFF#8, 0xFF#8, 0xFF#8, 0xFF#8]) rfl⟩

/-! ## Encode of decode (R68, R69) -/

/-- A string that decodes has an opcode byte, the length and the reserved bits of its format, and gives its fields. -/
theorem decodeCommand_eq_cmd {w : List Byte} {i : Instr} (h : decodeCommand w = .cmd i) :
    ∃ (o : Opcode) (args : List Byte), w = o.byte :: args ∧ o.format.argLength args = some args.length ∧
      o.format.reservedZero args = true ∧ o.build args = i := by
  cases w with
  | nil => cases h
  | cons b args =>
    cases ho : Opcode.ofByte b with
    | none => simp [decodeCommand, ho] at h
    | some o =>
      obtain rfl := Opcode.byte_eq_of_ofByte ho
      by_cases hlen : o.format.argLength args = some args.length
      · cases hres : o.format.reservedZero args with
        | false => rw [decodeCommand_reserved_bit hlen hres] at h; cases h
        | true =>
          rw [decodeCommand_fields hlen hres] at h
          exact ⟨o, args, rfl, hlen, hres, Decoded.cmd.inj h⟩
      · rw [decodeCommand_wrong_length hlen] at h
        cases h

/-- A byte below 64 is its row and column fields (R63). -/
theorem ofNat_rowField_colField {b : Byte} (h : b.toNat < 64) :
    BitVec.ofNat 8 ((rowField b).val * 8 + (colField b).val) = b := by
  apply BitVec.eq_of_toNat_eq
  simp [rowField, colField, bitSlice]
  omega

/-- A byte below 8 is its column field (R63). -/
theorem ofNat_colField {b : Byte} (h : b.toNat < 8) : BitVec.ofNat 8 (colField b).val = b := by
  apply BitVec.eq_of_toNat_eq
  simp [colField, bitSlice]
  omega

/-- Eight operand bytes read as a plane and written again are those bytes (R64, R65). -/
theorem toList_argPlane {args : List Byte} {k : Nat} (h : k + 8 ≤ args.length) :
    (argPlane args k).toList = (args.drop k).take 8 := by
  refine List.ext_getElem (by simp; omega) fun j hj hj' => ?_
  have hin : k + j < args.length := by simp at hj; omega
  simp [argPlane, argByte, hin]

/-! ### What a string of the right form is the encoding of, by format -/

section
variable {args : List Byte}

theorem args_of_formatZ (h : Format.argLength .Z args = some args.length) : args = [] :=
  List.length_eq_zero_iff.mp (Option.some.inj h).symm

theorem args_of_formatA (h : Format.argLength .A args = some args.length) (hres : Format.reservedZero .A args = true) :
    ∃ b : Byte, args = [b] ∧ b.toNat < 64 := by
  obtain ⟨b, rfl⟩ := List.length_eq_one_iff.mp (Option.some.inj h).symm
  exact ⟨b, rfl, of_decide_eq_true ((reservedZero_A b).symm.trans hres)⟩

theorem args_of_formatC (h : Format.argLength .C args = some args.length) (hres : Format.reservedZero .C args = true) :
    ∃ b : Byte, args = [b] ∧ b.toNat < 8 := by
  obtain ⟨b, rfl⟩ := List.length_eq_one_iff.mp (Option.some.inj h).symm
  exact ⟨b, rfl, of_decide_eq_true ((reservedZero_C b).symm.trans hres)⟩

theorem args_of_formatV (h : Format.argLength .V args = some args.length) :
    ∃ raw : List Byte, args = BitVec.ofNat 8 raw.length :: raw ∧ raw.length ≤ 255 := by
  cases args with
  | nil => cases h
  | cons n raw =>
    have hlen : raw.length = n.toNat := argLength_V_eq_iff.mp h
    have hbyte : n.toNat < 256 := n.isLt
    exact ⟨raw, by rw [hlen, BitVec.ofNat_toNat, BitVec.setWidth_eq], by omega⟩

end

/-- The fields of a string of the right form, written again, are the string. -/
theorem encode_build (o : Opcode) {args : List Byte} (hlen : o.format.argLength args = some args.length)
    (hres : o.format.reservedZero args = true) :
    (o.build args).wellFormed = true ∧ encode (o.build args) = o.byte :: args := by
  cases o with
  | clr | ser | enc =>
    obtain rfl := args_of_formatZ hlen
    exact ⟨rfl, rfl⟩
  | tgl =>
    obtain ⟨b, rfl, hb⟩ := args_of_formatA hlen hres
    exact ⟨rfl, congrArg (fun v => [0x02#8, v]) (ofNat_rowField_colField hb)⟩
  | rdc =>
    obtain ⟨b, rfl, hb⟩ := args_of_formatC hlen hres
    exact ⟨rfl, congrArg (fun v => [0x21#8, v]) (ofNat_colField hb)⟩
  | rdr =>
    obtain ⟨b, rfl, hb⟩ := args_of_formatC hlen hres
    exact ⟨rfl, congrArg (fun v => [0x22#8, v]) (ofNat_colField hb)⟩
  | des =>
    have h8 : args.length = 8 := (Option.some.inj hlen).symm
    have himm : (argPlane args 0).toList = args := by
      rw [toList_argPlane (by omega), List.drop_zero, List.take_of_length_le (by omega)]
    exact ⟨rfl, congrArg (List.cons 0x11#8) himm⟩
  | dmx =>
    have h16 : args.length = 16 := (Option.some.inj hlen).symm
    have hplanes : (argPlane args 0).toList ++ (argPlane args 8).toList = args := by
      rw [toList_argPlane (by omega), toList_argPlane (by omega), List.drop_zero,
        List.take_of_length_le (l := args.drop 8) (by simp; omega), List.take_append_drop]
    exact ⟨rfl, congrArg (List.cons 0x32#8) hplanes⟩
  | dec | ras =>
    obtain ⟨raw, rfl, hraw⟩ := args_of_formatV hlen
    exact ⟨decide_eq_true hraw, rfl⟩

/-- Settles O17: a string that decodes has the form its format asks for, and such a string is written again whole. -/
theorem decodedStringIsTheEncoding : Obligations.DecodedStringIsTheEncoding := by
  intro w i h
  obtain ⟨o, args, rfl, hlen, hres, rfl⟩ := decodeCommand_eq_cmd h
  exact encode_build o hlen hres

end Sys2Proof

namespace Sys2Proof.Machine

/-! ## Steps on command strings (R172, R177, R204) -/

/-- Settles O18: the pending string is taken off and its command performed. -/
theorem stepRunsTheDecodedCommand : Obligations.StepRunsTheDecodedCommand :=
  fun _ _ _ _ hinputs hrun hcmd _ => step_command_cmd hinputs hrun hcmd

/-- Settles O21: both tables, row by row. -/
theorem outcomeCodesAreTheTable : Obligations.OutcomeCodesAreTheTable :=
  ⟨rfl, rfl, rfl, rfl, rfl, rfl, rfl, rfl, rfl, rfl, rfl, rfl, reason_errorCode⟩

/-- Settles O22: one response and one matrix serve every running state that holds the matrix. -/
theorem responseDependsOnMatrixAndBytesOnly : Obligations.ResponseDependsOnMatrixAndBytesOnly := by
  intro w s s' hrun hrun' hm
  obtain ⟨r, X, hpresent⟩ := present_depends_on_matrix w s.m
  exact ⟨r, X, hpresent s hrun rfl, hpresent s' hrun' hm.symm⟩

/-- A run of two steps that both answer. -/
theorem run_two_of_steps {s t u : State} (hst : step s = .next t) (htu : step t = .next u) : core.run 2 s = .next u :=
  (run_succ_of_step hst 1).trans (run_succ_of_step htu 0)

/-- Settles O24: the error's response is all the first step adds, so the second command finds the matrix it would have
found without it. -/
theorem failedCommandLeavesNoTrace : Obligations.FailedCommandLeavesNoTrace := by
  intro s bad w e rest hrun hinputs herr
  obtain ⟨r, X, hpresent⟩ := present_depends_on_matrix w s.m
  have hbad := step_command_err hinputs hrun herr
  have hafter := (step_input (s := (s.withInputs (.command w :: rest)).record (errorResponse (errorCode e))) rfl).trans
    (hpresent ((s.record (errorResponse (errorCode e))).withInputs rest) hrun rfl)
  have hwithout := (step_input (s := s.withInputs (.command w :: rest)) rfl).trans
    (hpresent (s.withInputs rest) hrun rfl)
  exact ⟨_, r, run_two_of_steps hbad hafter, hwithout, List.append_assoc _ _ _⟩

end Sys2Proof.Machine
end

section
/-! SUPPORT. Laws of the function rules: the codec's round trips (41_matrix_codec.md section 1), the plane invariants
(42_eprom_encoder.md section 1), `decodeMatrix` and `image64` (44_eprom_decoder.md sections 1 and 2); then the statements
about them and about the commands that compose them. -/

namespace Sys2Proof.Machine

/-! ## The codec (R90, R91, R81) -/

/-- An index is made of its row and its column (R50). -/
theorem bitRow_mul_add_bitCol (k : Fin 64) : (bitRow k).val * 8 + (bitCol k).val = k.val := by
  simp only [bitRow, bitCol]
  omega

theorem fromBits_toBits (X : PixelMatrix) : fromBits (toBits X).toList = X := by
  refine PixelMatrix.eq_of_cells fun r c => ?_
  have hk : r.val * 8 + c.val < 64 := by omega
  calc (fromBits (toBits X).toList).cell r c
      = (toBits X).get ⟨r.val * 8 + c.val, hk⟩ := by rw [cell_fromBits]; simp [Vector.get_eq_getElem, hk]
    _ = X.cell r c := get_toBits_of_val_eq X rfl

theorem toBits_fromBits (S : RawBits) : toBits (fromBits S) = fit64 S := by
  refine Vector.ext fun k hk => ?_
  have hentry : (toBits (fromBits S)).get ⟨k, hk⟩ = (fit64 S).get ⟨k, hk⟩ := by
    rw [get_toBits, cell_fromBits, bitRow_mul_add_bitCol, get_fit64]
  simpa only [Vector.get_eq_getElem] using hentry

theorem toList_fit64 {S : RawBits} (h : S.length = 64) : (fit64 S).toList = S := by
  refine List.ext_getElem (by simp [h]) fun k _ hk => ?_
  simp [fit64, hk]

/-- The bit view of a matrix whose cells are all alike. -/
theorem toList_toBits_ofCells_const (b : Bool) :
    (toBits (PixelMatrix.ofCells fun _ _ => b)).toList = List.replicate 64 b := by
  have hview : toBits (PixelMatrix.ofCells fun _ _ => b) = Vector.replicate 64 b :=
    Vector.ext fun k _ => by simp [toBits]
  rw [hview, Vector.toList_replicate]

theorem fromBits_nil : fromBits [] = State.blank := rfl

/-- Settles O31: the round trips are the laws above; the images are those of matrices whose cells are all alike. -/
theorem codecRoundTrips : Obligations.CodecRoundTrips :=
  ⟨fromBits_toBits, toBits_fromBits, fun S h => (congrArg Vector.toList (toBits_fromBits S)).trans (toList_fit64 h),
    fun S => (fromBits_take_nbits S).symm, fromBits_nil, toList_toBits_ofCells_const false,
    toList_toBits_ofCells_const true⟩

/-! ## Idle bytes (R111) -/

/-- The idle byte is the one with every bit set. -/
theorem eq_idle_iff (v : Byte) : v = 0xFF#8 ↔ ∀ k : Fin 8, v.getLsbD k.val = true := by
  refine ⟨fun h k => h ▸ getLsbD_idle k, fun h => BitVec.eq_of_getLsbD_eq fun k hk => ?_⟩
  exact (h ⟨k, hk⟩).trans (getLsbD_idle ⟨k, hk⟩).symm

theorem columnByte_eq_idle_iff (X : PixelMatrix) (c : Fin 8) : columnByte X c = 0xFF#8 ↔ ∀ r, X.cell r c = false := by
  refine ⟨fun hidle r => Bool.eq_false_iff.mpr fun hlit => ?_, columnByte_of_unlit⟩
  have henabled := (getLsbD_columnByte_iff X c c).mpr ⟨rfl, r, hlit⟩
  rw [hidle, getLsbD_idle] at henabled
  exact Bool.noConfusion henabled

theorem rowByte_eq_idle_iff (X : PixelMatrix) (c : Fin 8) : rowByte X c = 0xFF#8 ↔ ∀ r, X.cell r c = false := by
  simp only [eq_idle_iff, getLsbD_rowByte, Bool.not_eq_true']

theorem columnByte_of_ne_idle {X : PixelMatrix} {c : Fin 8} (h : columnByte X c ≠ 0xFF#8) : ∃ r, X.cell r c = true := by
  simpa [columnByte_eq_idle_iff] using h

theorem active_iff_rowByte_ne_idle (X : PixelMatrix) (c : Fin 8) : active X c = true ↔ rowByte X c ≠ 0xFF#8 := by
  simp [active_iff, rowByte_eq_idle_iff]

/-- Settles O33: each invariant is the bits of a plane byte; the row plane is inverted by `rowsToMatrix`. -/
theorem planeInvariants : Obligations.PlaneInvariants := by
  refine ⟨fun X c => ?bytes, fun X Y h => ?injective, fun X Y c h => planeRead_congr h⟩
  case bytes =>
    simp only [encodePlanes, get_columnPlane, get_rowPlane]
    refine ⟨columnByte_eq_idle_iff X c, fun hne k => ?_, fun r => ?_, active_iff_rowByte_ne_idle X c⟩
    · rw [getLsbD_columnByte_iff, and_iff_left (columnByte_of_ne_idle hne)]
    · rw [getLsbD_rowByte, Bool.not_eq_false']
  case injective => rw [← rowsToMatrix_encodePlanes X, h, rowsToMatrix_encodePlanes]

/-! ## The pairs `encode` makes (30_encoding.md Part A) -/

/-- Each column byte is the one its row byte calls for. -/
theorem columnByte_eq_of_rowByte (X : PixelMatrix) (c : Fin 8) :
    columnByte X c = if rowByte X c = 0xFF#8 then 0xFF#8 else ~~~(1#8 <<< c.val) := by
  simp only [columnByte, active_iff_rowByte_ne_idle, ite_not]

/-- Every byte is the row byte of the column it describes. -/
theorem rowByte_rowsToMatrix (rp : Plane) (c : Fin 8) : rowByte (rowsToMatrix rp) c = rp.get c := by
  refine BitVec.eq_of_getLsbD_eq fun r hr => ?_
  have hbit : (rowByte (rowsToMatrix rp) c).getLsbD (⟨r, hr⟩ : Fin 8).val = (rp.get c).getLsbD r := by
    rw [getLsbD_rowByte, cell_rowsToMatrix, Bool.not_not]
  exact hbit

/-- Two planes with the same bytes are one plane. -/
theorem plane_ext {p q : Plane} (h : ∀ c : Fin 8, p.get c = q.get c) : p = q :=
  Vector.ext fun c hc => by simpa only [Vector.get_eq_getElem] using h ⟨c, hc⟩

/-- Settles O34: an encoded pair is consistent, and a consistent pair is the encoding of its rows' matrix. -/
theorem encoderImageIsTheConsistentPairs : Obligations.EncoderImageIsTheConsistentPairs := by
  refine fun cp rp => ⟨?consistent, fun h => ⟨rowsToMatrix rp, ?encoded⟩⟩
  case consistent =>
    rintro ⟨X, hX⟩ c
    obtain ⟨rfl, rfl⟩ := Prod.mk.inj hX
    rw [get_columnPlane, get_rowPlane, columnByte_eq_of_rowByte]
  case encoded =>
    have hrows : rowPlane (rowsToMatrix rp) = rp :=
      plane_ext fun c => (get_rowPlane _ c).trans (rowByte_rowsToMatrix rp c)
    have hcolumns : columnPlane (rowsToMatrix rp) = cp :=
      plane_ext fun c => by rw [get_columnPlane, columnByte_eq_of_rowByte, rowByte_rowsToMatrix, h c]
    exact Prod.ext hcolumns hrows

/-! ## Raw buffers (R140, R146) -/

/-- A cut after at least 8 bytes cannot be seen. -/
theorem decodeMatrix_take {n : Nat} (hn : 8 ≤ n) (raw : List Byte) : decodeMatrix (raw.take n) = decodeMatrix raw := by
  refine PixelMatrix.eq_of_cells fun r c => ?_
  have hrow : r.val < n := by omega
  simp only [cell_decodeMatrix, List.getD_eq_getElem?_getD, List.getElem?_take_of_lt hrow]

/-- The two cuts of R140 are cuts that `fromBits` makes itself. -/
theorem decodeMatrix_eq_fromBits (raw : List Byte) : decodeMatrix raw = fromBits (bytesToBits raw) :=
  PixelMatrix.eq_of_cells fun r c => (cell_decodeMatrix raw r c).trans (cell_fromBits_bytesToBits raw r c).symm

/-- The row bytes of a matrix load it again, whatever bytes follow. -/
theorem decodeMatrix_pack64_append (X : PixelMatrix) (tail : List Byte) :
    decodeMatrix (pack64 (toBits X) ++ tail) = X := by
  refine PixelMatrix.eq_of_cells fun r c => ?_
  rw [cell_decodeMatrix, List.getD_append _ _ _ _ (by rw [length_pack64]; exact r.isLt), getLsbD_getD_pack64_toBits]

theorem decodeMatrix_pack64 (X : PixelMatrix) : decodeMatrix (pack64 (toBits X)) = X := by
  simpa using decodeMatrix_pack64_append X []

theorem decodeMatrix_image64 (X : PixelMatrix) : decodeMatrix (image64 X) = X := decodeMatrix_pack64_append X _

theorem length_image64 (X : PixelMatrix) : (image64 X).length = 64 := by simp [image64]

/-- Settles O36: only the first 8 bytes are read. -/
theorem onlyEightBytesMatter : Obligations.OnlyEightBytesMatter := fun raw raw' h =>
  calc decodeMatrix raw = decodeMatrix (raw.take 8) := (decodeMatrix_take le_rfl raw).symm
    _ = decodeMatrix (raw'.take 8) := by rw [h]
    _ = decodeMatrix raw' := decodeMatrix_take le_rfl raw'

/-- Settles O38: `image64` is the row bytes and bytes that do not matter. -/
theorem importImageLaws : Obligations.ImportImageLaws := by
  refine fun X => ⟨rowsToMatrix_encodePlanes X, decodeMatrix_image64 X, length_image64 X, ?_,
    decodeMatrix_pack64_append X⟩
  rw [rowsToMatrix_encodePlanes, decodeMatrix_image64]

/-- Settles O39: row `k` of the decoded file is row byte `k`, whose bit `7-j` says that the cell is unlit. -/
theorem rowsFileIsNoImportFile : Obligations.RowsFileIsNoImportFile := by
  intro X k j
  have hrow : (Fin.ofNat 8 (7 - j.val)).val = 7 - j.val := Nat.mod_eq_of_lt (by omega)
  have hbyte : (rowPlane X).toList.getD k.val 0#8 = rowByte X k := by
    rw [← get_rowPlane]
    simp [Vector.get_eq_getElem]
  calc (decodeMatrix (rowPlane X).toList).cell k j
      = (rowByte X k).getLsbD (Fin.ofNat 8 (7 - j.val)).val := by rw [cell_decodeMatrix, hbyte, hrow]
    _ = !X.cell (Fin.ofNat 8 (7 - j.val)) k := getLsbD_rowByte X _ k

/-! ## Commands that undo or repeat one another -/

/-- Settles O40: the payload is the encoded pair, which displays the matrix it was made from. -/
theorem exportClearRestore : Obligations.ExportClearRestore :=
  fun s => ⟨_, _, _, columnPlane s.m, rowPlane s.m, exec_enc s, rfl, exec_clr _, exec_dmx _ _ _,
    display_encodePlanes s.m⟩

/-- The 8 row bytes as an operand of `DES`. -/
def rowVector (B : BitSequence) : Vector Byte 8 := Vector.ofFn (packRow B)

@[simp] theorem toList_rowVector (B : BitSequence) : (rowVector B).toList = pack64 B := by
  rw [rowVector, Vector.toList_ofFn, List.ofFn_eq_map, pack64]

theorem exec_des_rowVector (X : PixelMatrix) (s : State) :
    exec (.des (rowVector (toBits X))) s = .next ((s.withMatrix X).record (okBytes [])) := by
  rw [exec_des, toList_rowVector, ← decodeMatrix_eq_fromBits, decodeMatrix_pack64]

/-- Settles O41: the payload is the row bytes, which either command reads back. -/
theorem serialisedRowsCopyTheMatrix : Obligations.SerialisedRowsCopyTheMatrix := by
  refine fun s other => ⟨_, rowVector (toBits s.m), exec_ser s, ?payload, ⟨_, exec_des_rowVector s.m other, rfl⟩,
    fun tail => ⟨_, exec_dec _ other, ?copy⟩⟩
  case payload => rw [toList_rowVector]; rfl
  case copy => rw [toList_rowVector]; exact decodeMatrix_pack64_append s.m tail

/-- Bytes that are all 0 spell the blank matrix. -/
theorem fromBits_bytesToBits_zeros : fromBits (bytesToBits (Vector.replicate 8 0#8).toList) = State.blank := by
  refine PixelMatrix.eq_of_cells fun r c => ?_
  rw [cell_fromBits_bytesToBits, cell_blank, Vector.toList_replicate, List.getD_replicate _ r.isLt, BitVec.getLsbD_zero]

/-- Settles O42: each command writes a matrix whose cells are all unlit. -/
theorem commandsEquivalentToReset : Obligations.CommandsEquivalentToReset := by
  intro i s hi
  obtain rfl | rfl | rfl | rfl : i = .clr ∨ i = .dec [] ∨ i = .des (Vector.replicate 8 0#8) ∨
      i = .dmx (Vector.replicate 8 0xFF#8) (Vector.replicate 8 0xFF#8) := by simpa using hi
  · exact ⟨_, exec_clr s, rfl⟩
  · exact ⟨_, exec_dec [] s, (decodeMatrix_eq_fromBits []).trans fromBits_nil⟩
  · exact ⟨_, exec_des _ s, fromBits_bytesToBits_zeros⟩
  · exact ⟨_, exec_dmx _ _ s,
      PixelMatrix.eq_of_cells fun r k => (cell_display_idle _ r k).trans (cell_blank r k).symm⟩

end Sys2Proof.Machine
end

section
/-! SUPPORT. The host's actions before a running block (30_encoding.md R71, 45_preview_and_host.md R162 to R166): the
next state of each, as one equation; then the statements about single actions. -/

namespace Sys2Proof.Machine

/-! ## Readers and writers (R12, R41) -/

@[simp] theorem okBytes_wf (b : List Byte) : (okBytes b).wf = true := rfl

@[simp] theorem okBits_wf (b : RawBits) : (okBits b).wf = true := rfl

@[simp] theorem errorResponse_wf (c : OutcomeCode) : (errorResponse c).wf = true := by
  simp [Response.wf, errorResponse]

/-- A reading command adds one response, which the matrix fixes. -/
theorem exec_reader {i : Instr} (hi : writesMatrix i = false) (X : PixelMatrix) :
    ∃ r : Response, r.wf = true ∧ ∀ s : State, s.m = X → exec i s = .next (s.record r) := by
  cases i with
  | clr | tgl | des | dec | dmx => cases hi
  | ser => exact ⟨_, okBytes_wf _, fun s hm => hm ▸ exec_ser s⟩
  | enc => exact ⟨_, okBytes_wf _, fun s hm => hm ▸ exec_enc s⟩
  | rdc c => exact ⟨_, okBytes_wf _, fun s hm => hm ▸ exec_rdc c s⟩
  | rdr c => exact ⟨_, okBytes_wf _, fun s hm => hm ▸ exec_rdr c s⟩
  | ras raw => exact ⟨_, okBits_wf _, fun s _ => exec_ras raw s⟩

/-- A writing command replaces the matrix and answers `OK` without a payload. -/
theorem exec_writer {i : Instr} (hi : writesMatrix i = true) (s : State) :
    ∃ Y : PixelMatrix, exec i s = .next ((s.withMatrix Y).record (okBytes [])) := by
  cases i with
  | ser | enc | rdc | rdr | ras => cases hi
  | clr => exact ⟨_, exec_clr s⟩
  | tgl r c => exact ⟨_, exec_tgl r c s⟩
  | des imm => exact ⟨_, exec_des imm s⟩
  | dec raw => exact ⟨_, exec_dec raw s⟩
  | dmx cp rp => exact ⟨_, exec_dmx cp rp s⟩

/-- Settles O13: the one response is fixed by the matrix, which the command keeps. -/
theorem readersChangeNothingAndRepeat : Obligations.ReadersChangeNothingAndRepeat := by
  intro i s t hreader hexec
  obtain ⟨r, -, hanswer⟩ := exec_reader hreader s.m
  obtain rfl : s.record r = t := Host.Outcome.next.inj ((hanswer s rfl).symm.trans hexec)
  exact ⟨r, rfl, rfl, fun _ => rfl, fun _ _ => rfl, hanswer _ rfl⟩

/-! ## Reset and loss of power (R21, R183, R190) -/

/-- Settles O1: the reset matrix is blank, so its bits are 0 and its plane bytes idle. -/
theorem resetLeavesTheStatedValues : Obligations.ResetLeavesTheStatedValues :=
  ⟨cell_blank, fun k => (get_toBits State.blank k).trans (cell_blank _ _), planeRead_blank, rfl, rfl, rfl, rfl⟩

/-- Settles O2: the step performs the reset event. -/
theorem resetEventRestoresTheResetValues : Obligations.ResetEventRestoresTheResetValues :=
  fun _ _ hinputs => ⟨_, step_input hinputs, rfl, rfl⟩

/-! ## Actions of one command -/

/-- A command the host encodes is the command a running block performs. -/
theorem present_encode {i : Instr} {s : State} (hi : i.wellFormed = true) (hrun : s.power = .running) :
    present (encode i) s = exec i s :=
  present_cmd hrun (decodeOfEncodeIsTheCommand i hi)

section
variable {s : State}

theorem togglePixel_eq (r c : Fin 8) (hrun : s.power = .running) :
    togglePixel r c s = .next ((s.withMatrix (toggleCell s.m r c)).record (okBytes [])) :=
  (present_encode rfl hrun).trans (exec_tgl r c s)

/-- `DES` of the row bytes of a matrix loads the matrix. -/
theorem present_rowBytes (X : PixelMatrix) (hrun : s.power = .running) :
    present (0x11#8 :: pack64 (toBits X)) s = .next ((s.withMatrix X).record (okBytes [])) := by
  rw [← toList_rowVector]
  exact (present_encode (i := .des (rowVector (toBits X))) rfl hrun).trans (exec_des_rowVector X s)

theorem loadPattern_of_lookup {name : Text} {X : PixelMatrix} (h : Config.patternTable.lookup name = some X) :
    loadPattern name s = setMatrix X s := by
  simp [loadPattern, h]

theorem loadPattern_of_missing {name : Text} (h : Config.patternTable.lookup name = none) :
    loadPattern name s = .refused .noSuchPattern := by
  simp [loadPattern, h]

theorem loadSaved_of_getElem {k : Nat} {p : Pattern} (h : s.saved[k]? = some p) :
    loadSaved k s = present (0x11#8 :: p.rows) s := by
  simp [loadSaved, h]

theorem loadSaved_of_missing {k : Nat} (h : s.saved[k]? = none) : loadSaved k s = .refused .noSuchPattern := by
  simp [loadSaved, h]

/-- The cut at 255 bytes does not reach the 8 bytes that are read (R65, R140). -/
theorem importMatrix_eq (raw : List Byte) (hrun : s.power = .running) :
    importMatrix raw s = .next ((s.withMatrix (decodeMatrix raw)).record (okBytes [])) := by
  have hfits : (Instr.dec (raw.take Config.maxPayload)).wellFormed = true :=
    decide_eq_true (List.length_take_le Config.maxPayload raw)
  refine (present_encode hfits hrun).trans ?_
  rw [exec_dec, decodeMatrix_take (by decide)]

theorem importFile_draw (raw : List Byte) (hmode : s.mode = .draw) :
    importFile (.delivered raw) s = importMatrix raw s := by
  simp [importFile, hmode]

theorem importFile_text (raw : List Byte) (hmode : s.mode = .text) :
    importFile (.delivered raw) s = importText raw s := by
  simp [importFile, hmode]

theorem importText_of_decoded {raw : List Byte} {str : Text} (h : Config.textDecoder raw = some str) :
    importText raw s = .next (s.addShown (.importedText str)) := by
  simp [importText, h]

theorem importText_of_undecoded {raw : List Byte} (h : Config.textDecoder raw = none) :
    importText raw s = .next (s.record (errorResponse .decodeError)) := by
  simp [importText, h, reportHost, respond_eq, errorResponse]

theorem importFile_failed : importFile .failed s = .next (s.record (errorResponse .fileAccessFailure)) := rfl

theorem tabSwitch_eq (hrun : s.power = .running) : tabSwitch s =
    .next ((((s.withMode s.mode.other).withText []).withMatrix State.blank).record (okBytes [])) :=
  (present_encode (i := .clr) (s := (s.withMode s.mode.other).withText []) rfl hrun).trans (exec_clr _)

theorem rasterizeText_of_rejected {u : Text} {r : Rejection} (hv : validate u = some r) :
    rasterizeText u s = .refused .unvalidatedText := by
  simp [rasterizeText, hv]

theorem rasterizeText_of_accepted {u : Text} (hv : validate u = none) :
    rasterizeText u s = present (encode (.ras (textBytes u))) s := by
  simp [rasterizeText, hv]

end

/-- A mode is not the other one. -/
theorem other_ne (k : AppMode) : k.other ≠ k := by cases k <;> decide

/-- Settles O45: the gate reports the verdict, in either mode. -/
theorem rejectedTextLeavesTheMatrix : Obligations.RejectedTextLeavesTheMatrix :=
  fun _ _ _ _ hinputs hv => (step_input hinputs).trans (textEdit_of_rejected hv)

/-- Settles O49: the string decodes and is shown, or the error is reported; neither touches the matrix. -/
theorem textImportLeavesTheMatrix : Obligations.TextImportLeavesTheMatrix := by
  intro s rest raw hinputs hmode
  have hstep := (step_input hinputs).trans (importFile_text (s := s.withInputs rest) raw hmode)
  cases hdec : Config.textDecoder raw with
  | some str => exact ⟨_, hstep.trans (importText_of_decoded hdec), rfl, fun _ _ => rfl, rfl⟩
  | none => exact ⟨_, hstep.trans (importText_of_undecoded hdec), rfl, fun _ _ => rfl, rfl⟩

/-- Settles O50: draw mode sends the file to `DEC`. -/
theorem matrixImportLoadsTheFile : Obligations.MatrixImportLoadsTheFile :=
  fun s rest raw hinputs hmode hrun => (step_input hinputs).trans
    ((importFile_draw (s := s.withInputs rest) raw hmode).trans (importMatrix_eq raw hrun))

/-- Settles O56: the lookup decides, and draw mode passes the load on. -/
theorem patternLoadReplacesTheMatrix : Obligations.PatternLoadReplacesTheMatrix := by
  intro s rest name hinputs hmode hrun
  have hstep : step s = loadPattern name (s.withInputs rest) :=
    (step_input hinputs).trans (inMode_eq (s := s.withInputs rest) hmode)
  cases hname : Config.patternTable.lookup name with
  | some X => exact hstep.trans ((loadPattern_of_lookup hname).trans (present_rowBytes X hrun))
  | none => exact hstep.trans (loadPattern_of_missing hname)

/-- Settles O57: the switch is `CLR` in the other mode. -/
theorem tabSwitchDiscardsTheMatrix : Obligations.TabSwitchDiscardsTheMatrix :=
  fun s rest hinputs hrun => ⟨_, (step_input hinputs).trans (tabSwitch_eq (s := s.withInputs rest) hrun),
    other_ne s.mode, rfl, rfl⟩

/-! ## Actions that read a payload back -/

@[simp] theorem lastPayload_record (s : State) (r : Response) : lastPayload (s.record r) = r.payload.toBytes := by
  simp [lastPayload]

/-- The payload of `ENC` (R115). -/
def planeBytes (X : PixelMatrix) : List Byte := (encodePlanes X).1.toList ++ (encodePlanes X).2.toList

section
variable {s : State}

theorem present_enc (hrun : s.power = .running) :
    present (encode .enc) s = .next (s.record (okBytes (planeBytes s.m))) :=
  (present_encode rfl hrun).trans (exec_enc s)

theorem present_ser (hrun : s.power = .running) :
    present (encode .ser) s = .next (s.record (okBytes (pack64 (toBits s.m)))) :=
  (present_encode rfl hrun).trans (exec_ser s)

theorem savePattern_eq (name : Text) (time : Nat) (hrun : s.power = .running) : savePattern name time s =
    .next ((s.record (okBytes (pack64 (toBits s.m)))).withSaved (s.saved ++ [⟨name, time, pack64 (toBits s.m)⟩])) := by
  rw [savePattern, present_ser hrun, andThen_next, lastPayload_record]
  rfl

theorem take_planeBytes (X : PixelMatrix) : (planeBytes X).take 8 = (encodePlanes X).1.toList :=
  List.take_left' Vector.length_toList

theorem drop_planeBytes (X : PixelMatrix) : (planeBytes X).drop 8 = (encodePlanes X).2.toList :=
  List.drop_left' Vector.length_toList

/-- The two files in which `EXP` writes a matrix (R33, R163). -/
def planeFiles (k : AppMode) (time : Nat) (X : PixelMatrix) : List ExportFile :=
  [⟨⟨k, .columns, time⟩, (encodePlanes X).1.toList⟩, ⟨⟨k, .rows, time⟩, (encodePlanes X).2.toList⟩]

theorem exportFiles_planeBytes (k : AppMode) (time : Nat) (X : PixelMatrix) :
    exportFiles k time (planeBytes X) = planeFiles k time X := by
  simp only [exportFiles, Config.exportFileLen, take_planeBytes, drop_planeBytes, planeFiles]

/-- What `EXP` does when the gate lets it through. -/
def issueExport (time : Nat) (a : FileWrite) (s : State) : Result :=
  andThen (present (encode .enc) s) (writeFiles time a)

theorem issueExport_accepted (time : Nat) (hrun : s.power = .running) : issueExport time .accepted s =
    .next ((s.record (okBytes (planeBytes s.m))).addFiles (planeFiles s.mode time s.m)) := by
  rw [issueExport, present_enc hrun, andThen_next, writeFiles, lastPayload_record]
  exact congrArg (fun l => Host.Outcome.next (State.addFiles _ l)) (exportFiles_planeBytes s.mode time s.m)

theorem issueExport_failed (time : Nat) (hrun : s.power = .running) : issueExport time .failed s =
    .next ((s.record (okBytes (planeBytes s.m))).record (errorResponse .fileAccessFailure)) := by
  rw [issueExport, present_enc hrun, andThen_next]
  rfl

/-- What a preview does when the gate lets it through. -/
def issuePreview (s : State) : Result :=
  andThen (present (encode .enc) s) fun t =>
    andThen (present (encode .ser) t) fun u => showPreview (lastPayload t) (lastPayload u) u

theorem issuePreview_eq (hrun : s.power = .running) : issuePreview s =
    .next (((s.record (okBytes (planeBytes s.m))).record (okBytes (pack64 (toBits s.m)))).addShown
      (.preview (render (encodePlanes s.m).1.toList (encodePlanes s.m).2.toList s.m))) := by
  rw [issuePreview, present_enc hrun, andThen_next, present_ser (s := s.record _) hrun, andThen_next,
    lastPayload_record, lastPayload_record, ← take_planeBytes, ← drop_planeBytes]
  exact congrArg (fun X => Host.Outcome.next (State.addShown _ (.preview (render _ _ X)))) (decodeMatrix_pack64 s.m)

/-- `EXP` and a preview are gated (R132). -/
theorem exportPlanes_eq_gated (time : Nat) (a : FileWrite) :
    exportPlanes time a s = gated (issueExport time a) s := rfl

theorem preview_eq_gated : preview s = gated issuePreview s := rfl

end

/-- The second run of the gate reports its verdict as the first does. -/
theorem gated_of_rejected {f : State → Result} {s : State} {r : Rejection} (hr : s.rejection = none)
    (hv : validate s.text = some r) :
    gated f s = .next ((s.withRejection (some r)).record (errorResponse (rejectionCode r))) :=
  (unlessRejected_none hr).trans (runGate_some hv f s)

/-- Settles O53: both actions pass the gate, whatever they do behind it. -/
theorem rejectionDisablesPreviewAndExport : Obligations.RejectionDisablesPreviewAndExport := by
  intro s rest x r hinputs hx
  obtain ⟨f, hgated⟩ : ∃ f, perform x (s.withInputs rest) = gated f (s.withInputs rest) := by
    obtain rfl | ⟨time, a, rfl⟩ := hx
    · exact ⟨_, preview_eq_gated⟩
    · exact ⟨_, exportPlanes_eq_gated time a⟩
  have hstep := (step_input hinputs).trans hgated
  exact ⟨fun hr => hstep.trans (unlessRejected_some (s := s.withInputs rest) hr),
    fun hr hv => hstep.trans (gated_of_rejected (s := s.withInputs rest) hr hv)⟩

/-- Settles O51: no command for a file that is not read; the failure to write one comes after `ENC`'s response. -/
theorem fileFailureLeavesTheMatrix : Obligations.FileFailureLeavesTheMatrix := by
  refine fun s rest time => ⟨fun hinputs => (step_input hinputs).trans importFile_failed,
    fun hinputs hrun hr hv => ?exported⟩
  calc step s = gated (issueExport time .failed) (s.withInputs rest) := step_input hinputs
    _ = issueExport time .failed (s.withInputs rest) := gated_eq hr hv
    _ = .next (((s.withInputs rest).record (okBytes (planeBytes s.m))).record (errorResponse .fileAccessFailure)) :=
      issueExport_failed time hrun
    _ = _ := by simp [State.record, State.withInputs, planeBytes]

/-- Settles O55: the saved bytes are the row bytes of the picture, which `DES` loads again. -/
theorem savedPatternRestoresThePicture : Obligations.SavedPatternRestoresThePicture := by
  intro s u rest rest' name time hinputs hrun
  refine ⟨_, (step_input hinputs).trans (savePattern_eq (s := s.withInputs rest) name time hrun), rfl, ?added, ?kept,
    fun hsaved hurun hmode huinputs => ?loaded, fun hurun huinputs => ?set⟩
  case added => simp
  case kept => simp
  case loaded =>
    have hk : (u.withInputs rest').saved[s.saved.length]? = some ⟨name, time, pack64 (toBits s.m)⟩ := by simp [hsaved]
    calc step u = loadSaved s.saved.length (u.withInputs rest') :=
          (step_input huinputs).trans (inMode_eq (s := u.withInputs rest') hmode)
      _ = _ := (loadSaved_of_getElem hk).trans (present_rowBytes s.m hurun)
  case set => exact (step_input huinputs).trans (present_rowBytes (s := u.withInputs rest') s.m hurun)

end Sys2Proof.Machine
end

section
/-! SUPPORT. A validated text and its matrix (40_byte_serializer.md R82 to R86, 42_eprom_encoder.md R118): the bytes of
its characters, the cells they light, and the actions that send them; then the statements about texts and about the files
their planes are written to. -/

namespace Sys2Proof.Machine

/-! ## The byte of a character (R55; log entry 17) -/

/-- The byte of a character below 128 is its code. -/
theorem toNat_charByte {c : Char} (h : c.toNat < 128) : (charByte c).toNat = c.toNat := by
  rw [charByte, BitVec.toNat_ofNat]
  omega

theorem getLsbD_charByte (c : Char) {k : Nat} (hk : k < 8) : (charByte c).getLsbD k = c.toNat.testBit k := by
  rw [charByte, BitVec.getLsbD_ofNat, decide_eq_true hk, Bool.true_and]

/-- Bit 7 of a character below 128 is 0. -/
theorem getLsbD_charByte_seven {c : Char} (h : c.toNat < 128) : (charByte c).getLsbD 7 = false :=
  (getLsbD_charByte c (by decide)).trans (Nat.testBit_lt_two_pow h)

theorem toNat_lt_of_le {c d : Char} (h : c ≤ d) (hd : d.toNat < 128) : c.toNat < 128 :=
  Nat.lt_of_le_of_lt h hd

theorem toNat_lt_of_inCharset {c : Char} (h : inCharset c) : c.toNat < 128 := by
  obtain ⟨-, h⟩ | ⟨-, h⟩ | rfl := h
  · exact toNat_lt_of_le h (by decide)
  · exact toNat_lt_of_le h (by decide)
  · decide

/-- The bytes of the characters a host can type before upper-casing: space, digits, letters of either case. -/
theorem charByte_of_typed {c : Char}
    (h : c = ' ' ∨ ('0' ≤ c ∧ c ≤ '9') ∨ ('A' ≤ c ∧ c ≤ 'Z') ∨ ('a' ≤ c ∧ c ≤ 'z')) :
    (charByte c).toNat = c.toNat ∧ (charByte c).getLsbD 7 = false := by
  have hlt : c.toNat < 128 := by
    obtain rfl | ⟨-, h⟩ | ⟨-, h⟩ | ⟨-, h⟩ := h
    · decide
    all_goals exact toNat_lt_of_le h (by decide)
  exact ⟨toNat_charByte hlt, getLsbD_charByte_seven hlt⟩

/-! ## The matrix of a text (R84) -/

theorem getD_textBytes_of_lt {u : Text} {j : Nat} (h : j < u.length) :
    (textBytes u).getD j 0#8 = charByte (upperChar u[j]) := by
  simp [textBytes, upper, h]

theorem getD_textBytes_of_missing {u : Text} {j : Nat} (h : ¬j < u.length) : (textBytes u).getD j 0#8 = 0#8 :=
  List.getD_eq_default _ _ (by rw [length_textBytes]; omega)

theorem textBytes_take (u : Text) (n : Nat) : textBytes (u.take n) = (textBytes u).take n := by
  simp [textBytes, upper, List.map_take]

theorem textMatrix_eq (u : Text) : textMatrix u = decodeMatrix (textBytes u) :=
  (decodeMatrix_eq_fromBits (textBytes u)).symm

theorem textMatrix_nil : textMatrix [] = State.blank := fromBits_nil

theorem cell_textMatrix (u : Text) (r c : Fin 8) :
    (textMatrix u).cell r c = ((textBytes u).getD r.val 0#8).getLsbD (7 - c.val) :=
  cell_fromBits_bytesToBits (textBytes u) r c

/-- Row `r` is the byte of character `r`; a row past the text is unlit. -/
theorem cell_textMatrix_eq (u : Text) (r c : Fin 8) : (textMatrix u).cell r c =
    if h : r.val < u.length then (charByte (upperChar u[r.val])).getLsbD (7 - c.val) else false := by
  rw [cell_textMatrix]
  split
  case isTrue h => rw [getD_textBytes_of_lt h]
  case isFalse h => rw [getD_textBytes_of_missing h, BitVec.getLsbD_zero]

/-- Column 0 is bit 7, which no admitted character has. -/
theorem cell_textMatrix_zero {u : Text} (hv : validate u = none) (r : Fin 8) : (textMatrix u).cell r 0 = false := by
  obtain ⟨hchars, -⟩ := (validate_eq_none_iff u).mp hv
  rw [cell_textMatrix_eq]
  split
  case isTrue h =>
    have hmem : upperChar u[r.val] ∈ upper u := List.mem_map_of_mem (List.getElem_mem h)
    exact getLsbD_charByte_seven (toNat_lt_of_inCharset (hchars _ hmem))
  case isFalse => rfl

/-- Settles O47: column 0 of the matrix is that of the blank matrix, and bytes past the eighth are not read. -/
theorem textColumnZeroIsIdleAndTailIsCut : Obligations.TextColumnZeroIsIdleAndTailIsCut := by
  refine fun u hv => ⟨cell_textMatrix_zero hv, fun p => ?idle, ?cut⟩
  case idle =>
    have hcolumn : ∀ r, (textMatrix u).cell r 0 = State.blank.cell r 0 := fun r => by
      rw [cell_textMatrix_zero hv, cell_blank]
    rw [planeRead_congr hcolumn, planeRead_blank]
  case cut => rw [textMatrix_eq, textMatrix_eq, textBytes_take, decodeMatrix_take le_rfl]

/-! ## Text edit and rasterize (R71, R83, R86) -/

section
variable {u : Text} {s : State}

theorem textEdit_of_accepted (hv : validate u = none) (hmode : s.mode = .text) (hrun : s.power = .running) :
    textEdit u s = .next ((((s.withRejection none).withText u).withMatrix (textMatrix u)).record (okBytes [])) :=
  textMatrix_eq u ▸ textEdit_of_accepted_text hv hmode hrun

theorem rasterize_of_accepted (hv : validate u = none) : rasterize u = some (bytesToBits (textBytes u)) := by
  simp [rasterize, hv]

theorem rasterize_of_rejected {r : Rejection} (hv : validate u = some r) : rasterize u = none := by
  simp [rasterize, hv]

theorem rasterizeText_eq (hv : validate u = none) (hrun : s.power = .running) :
    rasterizeText u s = .next (s.record (okBits (bytesToBits (textBytes u)))) := by
  obtain ⟨-, hlen⟩ := (validate_eq_none_iff u).mp hv
  have hfits : (Instr.ras (textBytes u)).wellFormed = true :=
    decide_eq_true (by rw [length_textBytes]; exact hlen.trans (by decide))
  exact (rasterizeText_of_accepted hv).trans ((present_encode hfits hrun).trans (exec_ras _ s))

end

/-- Settles O46: the bytes are ASCII, and the step loads the text's matrix. -/
theorem acceptedTextLoadsItsMatrix : Obligations.AcceptedTextLoadsItsMatrix :=
  ⟨⟨rfl, rfl, rfl, rfl, fun _ => charByte_of_typed⟩, fun s rest u hinputs hmode hv hrun =>
    ⟨_, (step_input hinputs).trans (textEdit_of_accepted (s := s.withInputs rest) hv hmode hrun), rfl, rfl,
      cell_textMatrix_eq u⟩⟩

/-- Settles O48: the bits are those of the bytes that `RAS` gets. -/
theorem rasterizeNeedsValidation : Obligations.RasterizeNeedsValidation := by
  refine fun s rest u hinputs hrun => ⟨fun r hv => ⟨rasterize_of_rejected hv, ?refused⟩,
    fun hv => ⟨_, rasterize_of_accepted hv, ?length, fun j i hj => ?bit, ?answered⟩⟩
  case refused => exact (step_input hinputs).trans (rasterizeText_of_rejected hv)
  case length => rw [length_bytesToBits, length_textBytes]
  case bit => rw [getD_bytesToBits, getD_textBytes_of_lt hj, getLsbD_charByte _ (by omega)]
  case answered => exact (step_input hinputs).trans (rasterizeText_eq (s := s.withInputs rest) hv hrun)

/-! ## The files of `EXP` (R33, R71, R118, R163) -/

theorem toList_encodePlanes_columns (X : PixelMatrix) :
    (encodePlanes X).1.toList = (List.finRange 8).map fun c => planeRead .columns c X := by
  simp only [encodePlanes, columnPlane, Vector.toList_ofFn, List.ofFn_eq_map, planeRead_columns]

theorem toList_encodePlanes_rows (X : PixelMatrix) :
    (encodePlanes X).2.toList = (List.finRange 8).map fun c => planeRead .rows c X := by
  simp only [encodePlanes, rowPlane, Vector.toList_ofFn, List.ofFn_eq_map, planeRead_rows]

/-- The step on an `EXP` that the gate lets through and the medium accepts. -/
theorem step_exportPlanes_accepted {s : State} {rest : List Input} {time : Nat}
    (hinputs : s.inputs = .exportPlanes time .accepted :: rest) (hrun : s.power = .running) (hr : s.rejection = none)
    (hv : validate s.text = none) : step s =
      .next (((s.withInputs rest).record (okBytes (planeBytes s.m))).addFiles (planeFiles s.mode time s.m)) :=
  (step_input hinputs).trans ((gated_eq (s := s.withInputs rest) (f := issueExport time .accepted) hr hv).trans
    (issueExport_accepted time hrun))

/-- Settles O52: the name holds its parts; the edit leaves a state from which `EXP` writes the text's planes; the two
files are the two planes, byte by byte. -/
theorem exportWritesThePlanes : Obligations.ExportWritesThePlanes := by
  refine ⟨fun ⟨pre, label, stamp⟩ => ⟨?mode, ?label, ?stamp⟩, fun s rest u time hinputs hmode hrun hv => ?text,
    fun s rest time hinputs hrun hr hv => ?planes⟩
  case mode =>
    have hpart : modePrefix pre <:+: writtenName ⟨pre, label, stamp⟩ := part_infix_writtenName (by simp [nameParts])
    cases pre <;> exact hpart
  case label =>
    have hpart : planeLabel label <:+: writtenName ⟨pre, label, stamp⟩ := part_infix_writtenName (by simp [nameParts])
    cases label <;> exact hpart
  case stamp => exact part_infix_writtenName (by simp [nameParts])
  case text =>
    have hedit := (step_input hinputs).trans
      (textEdit_of_accepted (s := s.withInputs (.exportPlanes time .accepted :: rest)) hv hmode hrun)
    refine ⟨_, run_two_of_steps hedit (step_exportPlanes_accepted rfl hrun rfl hv), ?_⟩
    simp [planeFiles, hmode]
  case planes =>
    refine ⟨_, step_exportPlanes_accepted hinputs hrun hr hv, rfl, ?_, rfl⟩
    rw [← toList_encodePlanes_columns, ← toList_encodePlanes_rows]
    rfl

end Sys2Proof.Machine
end

section
/-! SUPPORT. What an answered step can do, said once: `HostOnly` for the changes that no part of the block or of the
picture's source sees, `Effect` for the cases of a host action (30_encoding.md R71, 45_preview_and_host.md R162, R164).
The invariant, the writers of `M`, the unreset phase and the text's picture are then read off the cases. -/

namespace Sys2Proof.Machine

/-! ## The invariant, update by update (30_encoding.md R66, 45_preview_and_host.md R166, 20_memory.md R33) -/

theorem State.wf_iff (s : State) : s.wf = true ↔
    (∀ r ∈ s.responses, r.wf = true) ∧ (∀ p ∈ s.saved, p.wf = true) ∧ (∀ f ∈ s.files, f.wf = true) ∧
      validate s.text = none := by
  simp [State.wf, and_assoc]

section
variable {s : State}

theorem State.wf_record {r : Response} (h : s.wf = true) (hr : r.wf = true) : (s.record r).wf = true := by
  obtain ⟨hresponses, hsaved, hfiles, htext⟩ := s.wf_iff.mp h
  refine (State.wf_iff _).mpr ⟨fun q hq => ?_, hsaved, hfiles, htext⟩
  obtain hq | rfl : q ∈ s.responses ∨ q = r := by simpa using hq
  · exact hresponses q hq
  · exact hr

theorem State.wf_withSaved_append {p : Pattern} (h : s.wf = true) (hp : p.wf = true) :
    (s.withSaved (s.saved ++ [p])).wf = true := by
  obtain ⟨hresponses, hsaved, hfiles, htext⟩ := s.wf_iff.mp h
  refine (State.wf_iff _).mpr ⟨hresponses, fun q hq => ?_, hfiles, htext⟩
  obtain hq | rfl : q ∈ s.saved ∨ q = p := by simpa using hq
  · exact hsaved q hq
  · exact hp

theorem State.wf_addFiles {l : List ExportFile} (h : s.wf = true) (hl : ∀ f ∈ l, f.wf = true) :
    (s.addFiles l).wf = true := by
  obtain ⟨hresponses, hsaved, hfiles, htext⟩ := s.wf_iff.mp h
  refine (State.wf_iff _).mpr ⟨hresponses, hsaved, fun f hf => ?_, htext⟩
  obtain hf | hf : f ∈ s.files ∨ f ∈ l := by simpa using hf
  · exact hfiles f hf
  · exact hl f hf

theorem State.wf_withText {t : Text} (h : s.wf = true) (ht : validate t = none) : (s.withText t).wf = true := by
  obtain ⟨hresponses, hsaved, hfiles, -⟩ := s.wf_iff.mp h
  exact (State.wf_iff _).mpr ⟨hresponses, hsaved, hfiles, ht⟩

theorem State.wf_withSaved_nil (h : s.wf = true) : (s.withSaved []).wf = true := by
  obtain ⟨hresponses, -, hfiles, htext⟩ := s.wf_iff.mp h
  exact (State.wf_iff _).mpr ⟨hresponses, by simp, hfiles, htext⟩

end

theorem validate_nil : validate [] = none := by decide

/-- Settles O58: the records are empty and the empty text is valid. -/
theorem resetIsWellFormed : Obligations.ResetIsWellFormed :=
  State.reset.wf_iff.mpr ⟨by simp [State.reset], by simp [State.reset], by simp [State.reset], validate_nil⟩

/-- A column plane made by `encode` is legal (R51). -/
theorem columnsLegal_columnPlane (X : PixelMatrix) : columnsLegal (columnPlane X).toList = true := by
  refine List.all_eq_true.mpr fun c _ => ?_
  have hbyte : (columnPlane X).toList.getD c.val 0#8 = columnByte X c := by
    rw [← get_columnPlane]
    simp [Vector.get_eq_getElem]
  rw [hbyte, columnByte_eq_of_rowByte]
  split <;> simp

theorem wf_of_mem_planeFiles {k : AppMode} {time : Nat} {X : PixelMatrix} {f : ExportFile}
    (hf : f ∈ planeFiles k time X) : f.wf = true := by
  obtain rfl | rfl : f = ⟨⟨k, .columns, time⟩, (encodePlanes X).1.toList⟩ ∨
      f = ⟨⟨k, .rows, time⟩, (encodePlanes X).2.toList⟩ := by simpa [planeFiles] using hf
  · simp [ExportFile.wf, encodePlanes, columnsLegal_columnPlane]
  · simp [ExportFile.wf]

/-! ## Changes of the host's records alone -/

/-- From `s` to `t` the block, the mode and the current text are as before, and the invariant is kept. -/
structure HostOnly (s t : State) : Prop where
  m : t.m = s.m
  power : t.power = s.power
  mode : t.mode = s.mode
  text : t.text = s.text
  wf : s.wf = true → t.wf = true

namespace HostOnly

variable {s t u : State}

theorem refl (s : State) : HostOnly s s := ⟨rfl, rfl, rfl, rfl, id⟩

theorem trans (h : HostOnly s t) (h' : HostOnly t u) : HostOnly s u :=
  ⟨h'.m.trans h.m, h'.power.trans h.power, h'.mode.trans h.mode, h'.text.trans h.text, h'.wf ∘ h.wf⟩

theorem record {r : Response} (hr : r.wf = true) : HostOnly s (s.record r) :=
  ⟨rfl, rfl, rfl, rfl, fun h => State.wf_record h hr⟩

theorem withRejection (r : Option Rejection) : HostOnly s (s.withRejection r) := ⟨rfl, rfl, rfl, rfl, id⟩

theorem addShown (x : Shown) : HostOnly s (s.addShown x) := ⟨rfl, rfl, rfl, rfl, id⟩

theorem addFiles {l : List ExportFile} (hl : ∀ f ∈ l, f.wf = true) : HostOnly s (s.addFiles l) :=
  ⟨rfl, rfl, rfl, rfl, fun h => State.wf_addFiles h hl⟩

theorem withSaved {p : Pattern} (hp : p.wf = true) : HostOnly s (s.withSaved (s.saved ++ [p])) :=
  ⟨rfl, rfl, rfl, rfl, fun h => State.wf_withSaved_append h hp⟩

/-- The gate's report of a rejection. -/
theorem reject (r : Rejection) : HostOnly s ((s.withRejection (some r)).record (errorResponse (rejectionCode r))) :=
  (withRejection _).trans (record (errorResponse_wf _))

end HostOnly

/-! ## The cases of an answered action -/

/-- The state after the reset event (log entry 6). -/
def afterReset (s : State) : State :=
  ((((s.withMatrix State.blank).withText []).withPower .running).withRejection none).withSaved []

theorem resetEvent_eq (s : State) : resetEvent s = .next (afterReset s) := rfl

/-- The state after a loss of power (log entry 8). -/
def afterPowerLoss (s : State) : State :=
  ((s.withMatrix (Config.powerOnMatrix s.freeIndex)).nextFree).withPower .unreset

theorem losePower_eq (s : State) : losePower s = .next (afterPowerLoss s) := rfl

/-- The actions that draw mode alone performs on `M` (R164; log entries 15 and 19). -/
inductive DrawAction : Input → Prop
  | importFile (raw : List Byte) : DrawAction (.importFile (.delivered raw))
  | togglePixel (r c : Fin 8) : DrawAction (.togglePixel r c)
  | loadPattern (name : Text) : DrawAction (.loadPattern name)
  | loadSaved (k : Nat) : DrawAction (.loadSaved k)

/-- What the action `x` can do to `s` when it answers. -/
inductive Effect (x : Input) (s : State) : State → Prop
  | hostOnly {t : State} (h : HostOnly s t) : Effect x s t
  | command {w : List Byte} {i : Instr} (hx : x = .command w) (hdec : decodeCommand w = .cmd i)
      (hwrites : writesMatrix i = true) (hrun : s.power = .running) (Y : PixelMatrix) :
      Effect x s ((s.withMatrix Y).record (okBytes []))
  | reset (hx : x = .reset) : Effect x s (afterReset s)
  | powerLoss (hx : x = .powerLoss) : Effect x s (afterPowerLoss s)
  | typed {u : Text} (hx : x = .textEdit u) (hv : validate u = none) (hmode : s.mode = .text)
      (hrun : s.power = .running) :
      Effect x s ((((s.withRejection none).withText u).withMatrix (textMatrix u)).record (okBytes []))
  | stored {u : Text} (hx : x = .textEdit u) (hv : validate u = none) (hmode : s.mode = .draw) :
      Effect x s ((s.withRejection none).withText u)
  | drawn (hx : DrawAction x) (hmode : s.mode = .draw) (hrun : s.power = .running) (Y : PixelMatrix) :
      Effect x s ((s.withMatrix Y).record (okBytes []))
  | setMatrix {X : PixelMatrix} (hx : x = .setMatrix X) (hrun : s.power = .running) :
      Effect x s ((s.withMatrix X).record (okBytes []))
  | tabSwitch (hx : x = .tabSwitch) (hrun : s.power = .running) :
      Effect x s ((((s.withMode s.mode.other).withText []).withMatrix State.blank).record (okBytes []))

section
variable {s t : State}

/-- A presented command that answers was read by a running block; it wrote `M`, or the record alone changed. -/
theorem present_next {w : List Byte} (h : present w s = .next t) : s.power = .running ∧ (HostOnly s t ∨
    ∃ i Y, decodeCommand w = .cmd i ∧ writesMatrix i = true ∧ t = (s.withMatrix Y).record (okBytes [])) := by
  obtain ⟨hrun, ⟨i, hdec, hexec⟩ | ⟨e, -, rfl⟩⟩ := present_cases h
  · refine ⟨hrun, ?_⟩
    cases hwrites : writesMatrix i with
    | false =>
      obtain ⟨r, hr, hanswer⟩ := exec_reader hwrites s.m
      obtain rfl := Host.Outcome.next.inj ((hanswer s rfl).symm.trans hexec)
      exact .inl (.record hr)
    | true =>
      obtain ⟨Y, hanswer⟩ := exec_writer hwrites s
      exact .inr ⟨i, Y, hdec, hwrites, Host.Outcome.next.inj (hexec.symm.trans hanswer)⟩
  · exact ⟨hrun, .inl (.record (errorResponse_wf _))⟩

theorem present_power {w : List Byte} (h : present w s = .next t) : s.power = .running := (present_next h).1

theorem effect_command {w : List Byte} (h : present w s = .next t) : Effect (.command w) s t := by
  obtain ⟨hrun, hhost | ⟨i, Y, hdec, hwrites, rfl⟩⟩ := present_next h
  · exact .hostOnly hhost
  · exact .command rfl hdec hwrites hrun Y

theorem effect_drawn {x : Input} {w : List Byte} (hx : DrawAction x) (hmode : s.mode = .draw)
    (h : present w s = .next t) : Effect x s t := by
  obtain ⟨hrun, hhost | ⟨i, Y, -, -, rfl⟩⟩ := present_next h
  · exact .hostOnly hhost
  · exact .drawn hx hmode hrun Y

/-- In text mode an accepted text is issued from the state that holds it. -/
theorem textEdit_issues {u : Text} (hv : validate u = none) (hmode : s.mode = .text) :
    textEdit u s = issueText u ((s.withRejection none).withText u) :=
  (runGate_none hv _ s).trans (inMode_eq hmode)

theorem effect_textEdit {u : Text} (h : textEdit u s = .next t) : Effect (.textEdit u) s t := by
  cases hv : validate u with
  | some r =>
    rw [textEdit_of_rejected hv] at h
    cases h
    exact .hostOnly (.reject r)
  | none =>
    cases hmode : s.mode with
    | draw =>
      rw [textEdit_of_accepted_draw hv hmode] at h
      cases h
      exact .stored rfl hv hmode
    | text =>
      have hissued := (textEdit_issues hv hmode).symm.trans h
      have hrun : s.power = .running := present_power (s := (s.withRejection none).withText u) hissued
      rw [textEdit_of_accepted hv hmode hrun] at h
      cases h
      exact .typed rfl hv hmode hrun

theorem hostOnly_rasterizeText {u : Text} (h : rasterizeText u s = .next t) : HostOnly s t := by
  cases hv : validate u with
  | some r => rw [rasterizeText_of_rejected hv] at h; cases h
  | none =>
    rw [rasterizeText_eq hv (present_power ((rasterizeText_of_accepted hv).symm.trans h))] at h
    cases h
    exact .record (okBits_wf _)

theorem hostOnly_importText {raw : List Byte} (h : importText raw s = .next t) : HostOnly s t := by
  cases hdec : Config.textDecoder raw with
  | some str => rw [importText_of_decoded hdec] at h; cases h; exact .addShown _
  | none => rw [importText_of_undecoded hdec] at h; cases h; exact .record (errorResponse_wf _)

theorem effect_importFile {a : FileRead} (h : importFile a s = .next t) : Effect (.importFile a) s t := by
  cases a with
  | failed => cases h; exact .hostOnly (.record (errorResponse_wf _))
  | delivered raw =>
    cases hmode : s.mode with
    | draw => exact effect_drawn (.importFile raw) hmode ((importFile_draw raw hmode).symm.trans h)
    | text => exact .hostOnly (hostOnly_importText ((importFile_text raw hmode).symm.trans h))

/-- A mode-bound action of draw mode has an effect there, and none in text mode. -/
theorem effect_inMode {x : Input} {f : State → Result} (hf : s.mode = .draw → f s = .next t → Effect x s t)
    (h : inMode .draw f s = .next t) : Effect x s t := by
  obtain ⟨hmode, h⟩ | ⟨-, rfl⟩ := inMode_eq_next h
  · exact hf hmode h
  · exact .hostOnly (.refl _)

theorem effect_loadPattern {name : Text} (hmode : s.mode = .draw) (h : loadPattern name s = .next t) :
    Effect (.loadPattern name) s t := by
  cases hname : Config.patternTable.lookup name with
  | none => rw [loadPattern_of_missing hname] at h; cases h
  | some X => exact effect_drawn (.loadPattern name) hmode ((loadPattern_of_lookup hname).symm.trans h)

theorem effect_loadSaved {k : Nat} (hmode : s.mode = .draw) (h : loadSaved k s = .next t) :
    Effect (.loadSaved k) s t := by
  cases hk : s.saved[k]? with
  | none => rw [loadSaved_of_missing hk] at h; cases h
  | some p => exact effect_drawn (.loadSaved k) hmode ((loadSaved_of_getElem hk).symm.trans h)

theorem effect_setMatrix {X : PixelMatrix} (h : setMatrix X s = .next t) : Effect (.setMatrix X) s t := by
  have hrun := present_power h
  rw [setMatrix, present_rowBytes X hrun] at h
  cases h
  exact .setMatrix rfl hrun

/-- A gated action that keeps to the host's records does so behind the gate too. -/
theorem hostOnly_gated {f : State → Result} (hf : f s = .next t → HostOnly s t) (h : gated f s = .next t) :
    HostOnly s t := by
  obtain ⟨-, rfl⟩ | ⟨r, -, rfl⟩ | h := gated_eq_next h
  · exact .refl _
  · exact .reject r
  · exact hf h

/-- A sequence that begins with a command answers only before a running block. -/
theorem andThen_present_power {w : List Byte} {f : State → Result} (h : andThen (present w s) f = .next t) :
    s.power = .running := by
  obtain ⟨u, hfirst, -⟩ := andThen_eq_next h
  exact present_power hfirst

theorem hostOnly_issueExport {time : Nat} {a : FileWrite} (h : issueExport time a s = .next t) : HostOnly s t := by
  have hrun := andThen_present_power h
  cases a with
  | accepted =>
    rw [issueExport_accepted time hrun] at h
    cases h
    exact (HostOnly.record (okBytes_wf _)).trans (.addFiles fun _ => wf_of_mem_planeFiles)
  | failed =>
    rw [issueExport_failed time hrun] at h
    cases h
    exact (HostOnly.record (okBytes_wf _)).trans (.record (errorResponse_wf _))

theorem hostOnly_issuePreview (h : issuePreview s = .next t) : HostOnly s t := by
  rw [issuePreview_eq (andThen_present_power h)] at h
  cases h
  exact ((HostOnly.record (okBytes_wf _)).trans (.record (okBytes_wf _))).trans (.addShown _)

theorem hostOnly_savePattern {name : Text} {time : Nat} (h : savePattern name time s = .next t) : HostOnly s t := by
  rw [savePattern_eq name time (andThen_present_power h)] at h
  cases h
  have hp : Pattern.wf ⟨name, time, pack64 (toBits s.m)⟩ = true := by simp [Pattern.wf]
  exact (HostOnly.record (okBytes_wf _)).trans (.withSaved hp)

theorem effect_tabSwitch (h : tabSwitch s = .next t) : Effect .tabSwitch s t := by
  have hrun : s.power = .running := present_power (s := (s.withMode s.mode.other).withText []) h
  rw [tabSwitch_eq hrun] at h
  cases h
  exact .tabSwitch rfl hrun

/-- An action that answers has one of the effects. -/
theorem effect_of_perform {x : Input} (h : perform x s = .next t) : Effect x s t := by
  cases x with
  | command w => exact effect_command h
  | reset => cases h; exact .reset rfl
  | powerLoss => cases h; exact .powerLoss rfl
  | overlap w₁ w₂ => cases h
  | textEdit u => exact effect_textEdit h
  | rasterize u => exact .hostOnly (hostOnly_rasterizeText h)
  | importFile a => exact effect_importFile h
  | togglePixel r c => exact effect_inMode (fun hmode => effect_drawn (.togglePixel r c) hmode) h
  | loadPattern name => exact effect_inMode effect_loadPattern h
  | setMatrix X => exact effect_setMatrix h
  | exportPlanes time a => exact .hostOnly (hostOnly_gated hostOnly_issueExport h)
  | preview => exact .hostOnly (hostOnly_gated hostOnly_issuePreview h)
  | savePattern name time => exact .hostOnly (hostOnly_savePattern h)
  | loadSaved k => exact effect_inMode effect_loadSaved h
  | tabSwitch => exact effect_tabSwitch h

/-- A step that answers was idle, or took an action off and had its effect. -/
theorem effect_of_step (h : step s = .next t) :
    (s.inputs = [] ∧ t = s) ∨ ∃ x rest, s.inputs = x :: rest ∧ Effect x (s.withInputs rest) t := by
  obtain hidle | ⟨x, rest, hinputs, hperform⟩ := step_cases h
  · exact .inl hidle
  · exact .inr ⟨x, rest, hinputs, effect_of_perform hperform⟩

end

/-! ## What every step keeps -/

theorem Effect.wf {x : Input} {s t : State} (h : Effect x s t) (hwf : s.wf = true) : t.wf = true := by
  cases h with
  | hostOnly h => exact h.wf hwf
  | command | drawn | setMatrix => exact State.wf_record (s := s.withMatrix _) hwf (okBytes_wf [])
  | reset =>
    exact State.wf_withSaved_nil (s := (((s.withMatrix _).withText []).withPower _).withRejection _)
      (State.wf_withText (s := s.withMatrix _) hwf validate_nil)
  | powerLoss => exact hwf
  | typed _ hv =>
    exact State.wf_record (s := ((s.withRejection _).withText _).withMatrix _)
      (State.wf_withText (s := s.withRejection _) hwf hv) (okBytes_wf [])
  | stored _ hv => exact State.wf_withText (s := s.withRejection _) hwf hv
  | tabSwitch =>
    exact State.wf_record (s := ((s.withMode _).withText []).withMatrix _)
      (State.wf_withText (s := s.withMode _) hwf validate_nil) (okBytes_wf [])

/-- Settles O59: every effect keeps the invariant, which does not speak of the pending actions. -/
theorem stepKeepsTheInvariant : Obligations.StepKeepsTheInvariant := by
  intro s t hwf hstep
  obtain ⟨-, rfl⟩ | ⟨x, rest, -, heffect⟩ := effect_of_step hstep
  · exact hwf
  · exact heffect.wf hwf

/-- Settles O25: an effect that changes `M` is none of the host's records. -/
theorem onlyListedEventsWriteTheMatrix : Obligations.OnlyListedEventsWriteTheMatrix := by
  intro s t hstep hne
  obtain ⟨-, rfl⟩ | ⟨x, rest, hinputs, heffect⟩ := effect_of_step hstep
  · exact absurd rfl hne
  refine ⟨x, rest, hinputs, ?_⟩
  cases heffect with
  | hostOnly h => exact absurd h.m hne
  | command hx hdec hwrites => exact .inl ⟨_, _, hx, hdec, hwrites⟩
  | reset hx => simp [hx]
  | powerLoss hx => simp [hx]
  | typed hx hv hmode => exact .inr (.inr (.inr (.inl ⟨_, hx, hv, hmode⟩)))
  | stored => exact absurd rfl hne
  | drawn hx hmode =>
    have hdraw : s.mode = .draw := hmode
    cases hx <;> simp [hdraw]
  | setMatrix hx => simp [hx]
  | tabSwitch hx => simp [hx]

section
variable {s : State} {rest : List Input}

theorem step_reset (hinputs : s.inputs = .reset :: rest) : step s = .next (afterReset (s.withInputs rest)) :=
  (step_input hinputs).trans (resetEvent_eq _)

theorem step_powerLoss (hinputs : s.inputs = .powerLoss :: rest) :
    step s = .next (afterPowerLoss (s.withInputs rest)) :=
  (step_input hinputs).trans (losePower_eq _)

theorem step_command_unreset {w : List Byte} (hinputs : s.inputs = .command w :: rest) (hs : s.power = .unreset) :
    step s = .refused .notReset :=
  (step_input hinputs).trans (present_unreset (s := s.withInputs rest) hs)

end

/-- In an unreset phase only the reset event makes the block run. -/
theorem Effect.power_unreset {x : Input} {s t : State} (h : Effect x s t) (hs : s.power = .unreset)
    (hx : x ≠ .reset) : t.power = .unreset := by
  have hstopped : s.power ≠ .running := by simp [hs]
  cases h with
  | hostOnly h => exact h.power.trans hs
  | reset hreset => exact absurd hreset hx
  | powerLoss => rfl
  | stored => exact hs
  | command _ _ _ hrun | typed _ _ _ hrun | drawn _ _ hrun | setMatrix _ hrun | tabSwitch _ hrun =>
    exact absurd hrun hstopped

/-- Settles O27: a command finds the phase, an answered step has an effect that keeps it, and the two events are the
model's equations. -/
theorem powerLossRefusesUntilReset : Obligations.PowerLossRefusesUntilReset := by
  refine ⟨fun s hs => ⟨fun w rest hinputs => step_command_unreset hinputs hs, fun t hnoReset hstep => ?kept,
    fun rest hinputs => ⟨_, step_reset hinputs, rfl, rfl⟩⟩, fun s rest hinputs => ⟨_, step_powerLoss hinputs, rfl⟩,
    fun s w rest => ⟨fun hinputs => ⟨_, step_powerLoss hinputs, step_command_unreset rfl rfl⟩,
      fun hinputs => ⟨_, _, step_powerLoss hinputs, step_reset rfl, rfl, rfl, rfl, rfl⟩⟩⟩
  case kept =>
    obtain ⟨-, rfl⟩ | ⟨x, rest, hinputs, heffect⟩ := effect_of_step hstep
    · exact hs
    · exact heffect.power_unreset hs fun hx => hnoReset rest (hx ▸ hinputs)

/-! ## The mode (R164, R118) -/

/-- An effect keeps the text's picture but where the hypotheses say. -/
theorem Effect.textPicture {x : Input} {s t : State} (h : Effect x s t) (hs : textPicture s) (hpower : x ≠ .powerLoss)
    (hset : ∀ X, x ≠ .setMatrix X)
    (hcommand : ∀ w i, x = .command w → decodeCommand w = .cmd i → writesMatrix i = false) : textPicture t := by
  cases h with
  | hostOnly h =>
    intro hmode
    rw [h.m, h.text]
    exact hs (h.mode.symm.trans hmode)
  | command hx hdec hwrites => exact absurd hwrites (by simp [hcommand _ _ hx hdec])
  | reset | tabSwitch => exact fun _ => textMatrix_nil.symm
  | powerLoss hx => exact absurd hx hpower
  | typed => exact fun _ => rfl
  | stored _ _ hdraw | drawn _ hdraw => exact fun hmode => AppMode.noConfusion (hdraw.symm.trans hmode)
  | setMatrix hx => exact absurd hx (hset _)

/-- Settles O60: the draw-mode equations, the idle actions of text mode, and the effects that keep the text's
picture. -/
theorem modeDecidesTheSource : Obligations.ModeDecidesTheSource := by
  refine fun s x rest hinputs => ⟨fun hmode => ⟨fun r c hx hrun => ?toggle, fun u hx hv => ?stored⟩,
    fun hmode hx => ?idle, fun t hs hstep hpower hset hcommand => ?picture⟩
  case toggle =>
    subst hx
    exact (step_input hinputs).trans ((inMode_eq (s := s.withInputs rest) hmode).trans
      (togglePixel_eq (s := s.withInputs rest) r c hrun))
  case stored =>
    subst hx
    exact (step_input hinputs).trans (textEdit_of_accepted_draw (s := s.withInputs rest) hv hmode)
  case idle =>
    have hne : (s.withInputs rest).mode ≠ .draw := by simp [hmode]
    rw [step_input hinputs]
    obtain ⟨r, c, rfl⟩ | ⟨name, rfl⟩ | ⟨k, rfl⟩ := hx
    all_goals exact inMode_ne hne
  case picture =>
    exact (effect_of_perform ((step_input hinputs).symm.trans hstep)).textPicture hs hpower hset hcommand

end Sys2Proof.Machine
end

section
/-! SUPPORT. What a refused step was refused for (60_exceptions.md R184; log entry 11), said once as `RefusedFor` with one
lemma per action; then the statement about it. -/

namespace Sys2Proof.Machine

/-- A command is refused only by an unreset block. -/
theorem present_eq_refused {w : List Byte} {s : State} {q : Refusal} (h : present w s = .refused q) :
    q = .notReset ∧ s.power = .unreset := by
  cases hp : s.power with
  | unreset =>
    rw [present_unreset hp] at h
    cases h
    exact ⟨rfl, rfl⟩
  | running =>
    obtain ⟨r, Y, hanswer⟩ := present_depends_on_matrix w s.m
    rw [hanswer s hp rfl] at h
    cases h

/-- An action that begins with a command and answers before a running block is refused only by an unreset one. -/
theorem andThen_present_eq_refused {w : List Byte} {s t : State} {f : State → Result} {q : Refusal}
    (hanswer : s.power = .running → andThen (present w s) f = .next t) (h : andThen (present w s) f = .refused q) :
    q = .notReset ∧ s.power = .unreset := by
  cases hp : s.power with
  | unreset =>
    rw [present_unreset hp, andThen_refused] at h
    cases h
    exact ⟨rfl, rfl⟩
  | running =>
    rw [hanswer hp] at h
    cases h

section
variable {s : State} {q : Refusal}

theorem issueExport_eq_refused {time : Nat} {a : FileWrite} (h : issueExport time a s = .refused q) :
    q = .notReset ∧ s.power = .unreset := by
  cases a with
  | accepted => exact andThen_present_eq_refused (issueExport_accepted time) h
  | failed => exact andThen_present_eq_refused (issueExport_failed time) h

theorem textEdit_eq_refused {u : Text} (h : textEdit u s = .refused q) : q = .notReset ∧ s.power = .unreset := by
  cases hv : validate u with
  | some r => rw [textEdit_of_rejected hv] at h; cases h
  | none =>
    rw [textEdit, runGate_none hv] at h
    obtain ⟨-, h⟩ := inMode_eq_refused h
    exact present_eq_refused (s := (s.withRejection none).withText u) h

theorem importFile_eq_refused {a : FileRead} (h : importFile a s = .refused q) :
    q = .notReset ∧ s.power = .unreset := by
  cases a with
  | failed => cases h
  | delivered raw =>
    cases hmode : s.mode with
    | draw => exact present_eq_refused ((importFile_draw raw hmode).symm.trans h)
    | text =>
      rw [importFile_text raw hmode] at h
      cases hdec : Config.textDecoder raw with
      | some str => rw [importText_of_decoded hdec] at h; cases h
      | none => rw [importText_of_undecoded hdec] at h; cases h

/-- The situations in which the action `x` is refused for `q` (R184; the last is log entry 11). -/
inductive RefusedFor (x : Input) (s : State) (q : Refusal) : Prop
  | overlap {w₁ w₂ : List Byte} (hq : q = .overlappingCommands) (hx : x = .overlap w₁ w₂)
  | unvalidated {u : Text} (hq : q = .unvalidatedText) (hx : x = .rasterize u) (hv : validate u ≠ none)
  | notReset (h : q = .notReset ∧ s.power = .unreset)
  | noPattern {name : Text} (hq : q = .noSuchPattern) (hmode : s.mode = .draw) (hx : x = .loadPattern name)
      (hname : Config.patternTable.lookup name = none)
  | noSaved {k : Nat} (hq : q = .noSuchPattern) (hmode : s.mode = .draw) (hx : x = .loadSaved k)
      (hk : s.saved[k]? = none)

theorem refusedFor_rasterize {u : Text} (h : rasterizeText u s = .refused q) : RefusedFor (.rasterize u) s q := by
  cases hv : validate u with
  | none => exact .notReset (present_eq_refused ((rasterizeText_of_accepted hv).symm.trans h))
  | some r =>
    rw [rasterizeText_of_rejected hv] at h
    cases h
    exact .unvalidated rfl rfl (by simp [hv])

theorem refusedFor_loadPattern {name : Text} (hmode : s.mode = .draw) (h : loadPattern name s = .refused q) :
    RefusedFor (.loadPattern name) s q := by
  cases hname : Config.patternTable.lookup name with
  | some X => exact .notReset (present_eq_refused ((loadPattern_of_lookup hname).symm.trans h))
  | none =>
    rw [loadPattern_of_missing hname] at h
    cases h
    exact .noPattern rfl hmode rfl hname

theorem refusedFor_loadSaved {k : Nat} (hmode : s.mode = .draw) (h : loadSaved k s = .refused q) :
    RefusedFor (.loadSaved k) s q := by
  cases hk : s.saved[k]? with
  | some p => exact .notReset (present_eq_refused ((loadSaved_of_getElem hk).symm.trans h))
  | none =>
    rw [loadSaved_of_missing hk] at h
    cases h
    exact .noSaved rfl hmode rfl hk

theorem refusedFor_of_perform {x : Input} (h : perform x s = .refused q) : RefusedFor x s q := by
  cases x with
  | command w => exact .notReset (present_eq_refused h)
  | reset => cases h
  | powerLoss => cases h
  | overlap w₁ w₂ => cases h; exact .overlap rfl rfl
  | textEdit u => exact .notReset (textEdit_eq_refused h)
  | rasterize u => exact refusedFor_rasterize h
  | importFile a => exact .notReset (importFile_eq_refused h)
  | togglePixel r c => exact .notReset (present_eq_refused (inMode_eq_refused h).2)
  | loadPattern name =>
    obtain ⟨hmode, h⟩ := inMode_eq_refused h
    exact refusedFor_loadPattern hmode h
  | setMatrix X => exact .notReset (present_eq_refused (w := 0x11#8 :: pack64 (toBits X)) h)
  | exportPlanes time a => exact .notReset (issueExport_eq_refused (gated_eq_refused h))
  | preview => exact .notReset (andThen_present_eq_refused issuePreview_eq (gated_eq_refused h))
  | savePattern name time => exact .notReset (andThen_present_eq_refused (savePattern_eq name time) h)
  | loadSaved k =>
    obtain ⟨hmode, h⟩ := inMode_eq_refused h
    exact refusedFor_loadSaved hmode h
  | tabSwitch => exact .notReset (present_eq_refused (w := encode .clr) (s := (s.withMode s.mode.other).withText []) h)

end

/-- Settles O26: a refused step took an action off, and the situation it was refused for is one of the listed ones. -/
theorem stepRefusesOnlyTheListedSituations : Obligations.StepRefusesOnlyTheListedSituations := by
  refine ⟨fun s rest w₁ w₂ hinputs => step_input hinputs, fun s q hstep => ?_⟩
  cases hinputs : s.inputs with
  | nil => rw [step_idle hinputs] at hstep; cases hstep
  | cons x rest =>
    refine ⟨x, rest, rfl, ?_⟩
    cases refusedFor_of_perform ((step_input hinputs).symm.trans hstep) with
    | overlap hq hx => exact .inl ⟨hq, _, _, hx⟩
    | unvalidated hq hx hv => exact .inr (.inl ⟨hq, _, hx, hv⟩)
    | notReset h => exact .inr (.inr (.inl h))
    | noPattern hq hmode hx hname => exact .inr (.inr (.inr ⟨hq, hmode, .inl ⟨_, hx, hname⟩⟩))
    | noSaved hq hmode hx hk => exact .inr (.inr (.inr ⟨hq, hmode, .inr ⟨_, hx, hk⟩⟩))

end Sys2Proof.Machine
end

section
/-! SUPPORT. The preview (45_preview_and_host.md R160 to R162; log entry 26): its pieces, the art's cells, and what the
numerals spell; then the statement about it. -/

namespace Sys2Proof.Machine

/-! ## The pieces (R160) -/

section
variable (cp rp : List Byte) (X : PixelMatrix)

theorem artText_infix_render : artText X <:+: render cp rp X := piece_infix_render (by simp [previewPieces])

theorem footerText_infix_render : footerText <:+: render cp rp X := piece_infix_render (by simp [previewPieces])

/-- Both numerals of each byte of either plane are pieces. -/
theorem numerals_infix_render {b : Byte} {c : Fin 8} (h : b = cp.getD c.val 0#8 ∨ b = rp.getD c.val 0#8) :
    binaryText b <:+: render cp rp X ∧ hexText b <:+: render cp rp X := by
  obtain rfl | rfl := h
  · obtain ⟨hbinary, hhex⟩ := mem_planeTexts cp c
    exact ⟨piece_infix_render (List.mem_append_left _ (List.mem_append_left _ hbinary)),
      piece_infix_render (List.mem_append_left _ (List.mem_append_left _ hhex))⟩
  · obtain ⟨hbinary, hhex⟩ := mem_planeTexts rp c
    exact ⟨piece_infix_render (List.mem_append_left _ (List.mem_append_right _ hbinary)),
      piece_infix_render (List.mem_append_left _ (List.mem_append_right _ hhex))⟩

end

/-! ## The art -/

/-- The piece at place `k` of the art is the character of cell `k`. -/
theorem getD_artPieces (X : PixelMatrix) (k : Fin 64) :
    ((toBits X).toList.map fun b => [pixelChar b]).getD k.val [] = [pixelChar (X.cell (bitRow k) (bitCol k))] := by
  simp [toBits]

/-- The cells stand in the art one after another in the art's order. -/
theorem cells_sublist_artText (X : PixelMatrix) :
    ((List.finRange 64).map fun i => pixelChar
      (X.cell (bitRow (Config.previewArtOrder i)) (bitCol (Config.previewArtOrder i)))).Sublist (artText X) := by
  have hpieces := sublist_assemble Config.previewArtOrder (fun i => Config.previewArtGap i X)
    ((toBits X).toList.map fun b => [pixelChar b])
  simp only [getD_artPieces] at hpieces
  rwa [List.map_eq_flatMap]

/-! ## The numerals -/

/-- The character of a binary digit. -/
theorem digitChar_of_lt_two (upperCase : Bool) {d : Nat} (h : d < 2) :
    (digitChar upperCase d = '0' ∨ digitChar upperCase d = '1') ∧ (digitChar upperCase d).toNat - 0x30 = d := by
  revert upperCase d
  decide

/-- The value of a hexadecimal digit's character. -/
def hexValue (ch : Char) : Nat :=
  if ch ≤ '9' then ch.toNat - 0x30 else if ch ≤ 'F' then ch.toNat - 0x37 else ch.toNat - 0x57

/-- The character of a hexadecimal digit, in either case. -/
theorem digitChar_of_lt_sixteen (upperCase : Bool) {d : Nat} (h : d < 16) :
    (('0' ≤ digitChar upperCase d ∧ digitChar upperCase d ≤ '9') ∨
      ('A' ≤ digitChar upperCase d ∧ digitChar upperCase d ≤ 'F') ∨
      ('a' ≤ digitChar upperCase d ∧ digitChar upperCase d ≤ 'f')) ∧ hexValue (digitChar upperCase d) = d := by
  revert upperCase d
  decide

/-- Written digits read back one by one as the digits read back. -/
theorem foldl_map_digitChar {base : Nat} {value : Char → Nat} {upperCase : Bool} {l : List Nat}
    (h : ∀ d ∈ l, value (digitChar upperCase d) = d) :
    (l.map (digitChar upperCase)).foldl (fun n ch => base * n + value ch) 0 = l.foldl (fun n d => base * n + d) 0 := by
  rw [List.foldl_map]
  exact List.foldl_ext _ _ _ fun n d hd => by rw [h d hd]

/-- A binary numeral has digits, all of them binary, and spells the byte. -/
theorem binaryText_spec (b : Byte) :
    binaryText b ≠ [] ∧ (∀ ch ∈ binaryText b, ch = '0' ∨ ch = '1') ∧
      (binaryText b).foldl (fun n ch => 2 * n + (ch.toNat - 0x30)) 0 = b.toNat := by
  obtain ⟨hne, hlt, hvalue⟩ := byteDigits_spec le_rfl Config.previewBinaryWidth b
  refine ⟨by simpa [binaryText] using hne, fun ch hch => ?digit, ?value⟩
  case digit =>
    obtain ⟨d, hd, rfl⟩ := List.mem_map.mp hch
    exact (digitChar_of_lt_two _ (hlt d hd)).1
  case value =>
    exact (foldl_map_digitChar (value := fun ch => ch.toNat - 0x30) fun d hd =>
      (digitChar_of_lt_two _ (hlt d hd)).2).trans hvalue

/-- A hexadecimal numeral has digits, all of them hexadecimal, and spells the byte. -/
theorem hexText_spec (b : Byte) :
    hexText b ≠ [] ∧ (∀ ch ∈ hexText b, ('0' ≤ ch ∧ ch ≤ '9') ∨ ('A' ≤ ch ∧ ch ≤ 'F') ∨ ('a' ≤ ch ∧ ch ≤ 'f')) ∧
      (hexText b).foldl (fun n ch => 16 * n + hexValue ch) 0 = b.toNat := by
  obtain ⟨hne, hlt, hvalue⟩ := byteDigits_spec (base := 16) (by decide) Config.previewHexWidth b
  refine ⟨by simpa [hexText] using hne, fun ch hch => ?digit, ?value⟩
  case digit =>
    obtain ⟨d, hd, rfl⟩ := List.mem_map.mp hch
    exact (digitChar_of_lt_sixteen _ (hlt d hd)).1
  case value => exact (foldl_map_digitChar fun d hd => (digitChar_of_lt_sixteen _ (hlt d hd)).2).trans hvalue

/-! ## The step -/

theorem step_preview {s : State} {rest : List Input} (hinputs : s.inputs = .preview :: rest)
    (hrun : s.power = .running) (hr : s.rejection = none) (hv : validate s.text = none) : step s =
      .next ((((s.withInputs rest).record (okBytes (planeBytes s.m))).record (okBytes (pack64 (toBits s.m)))).addShown
        (.preview (render (encodePlanes s.m).1.toList (encodePlanes s.m).2.toList s.m))) :=
  (step_input hinputs).trans ((gated_eq (s := s.withInputs rest) (f := issuePreview) hr hv).trans
    (issuePreview_eq (s := s.withInputs rest) hrun))

/-- Settles O54: each part of the string is a piece of it, the numerals read back as their bytes, and the step shows the
string of what `ENC` and `SER` returned. -/
theorem previewRendersTheCurrentPicture : Obligations.PreviewRendersTheCurrentPicture := by
  refine ⟨fun cp rp X => ⟨artText_infix_render cp rp X, footerText_infix_render cp rp X,
      fun c b => numerals_infix_render cp rp X⟩, ⟨Config.previewArtOrder, cells_sublist_artText⟩,
    pixelChar_injective.ne (by decide), List.cons_ne_nil _ _, fun b => ⟨binaryText_spec b, hexText_spec b⟩,
    fun s rest hinputs hrun hr hv => ⟨_, step_preview hinputs hrun hr hv, rfl, rfl, ?frame⟩⟩
  simp [State.record, State.withInputs, State.addShown, planeBytes]

end Sys2Proof.Machine
end
